-- ==== Sys2Proof/Word.lean ====
section
/-! DEFINITION. The value types of the block (00_scope.md R15): bit vectors for what the spec treats as bits, an
enumeration for what it names. A time (R232) and a button number (R42) are natural numbers. The numeric codes of the
enumerations (30_encoding.md R94, R109) are in Machine/Flags.lean. -/

namespace Sys2Proof

/-- NIB4 (R91): a 4-bit unsigned value; bit 0 is d0, the least significant. -/
abbrev Nibble := BitVec 4

/-- An 8-bit unsigned value. -/
abbrev Byte := BitVec 8

/-- CODE8 (R92): bit 0 the parity bit p, bits 1 to 3 the check bits h0 h1 h2, bits 4 to 7 the data bits d0 to d3. -/
abbrev CodedByte := BitVec 8

/-- SYN3 (R93): bit 0 is s0, bit 1 is s1, bit 2 is s2. -/
abbrev Syndrome := BitVec 3

/-- POS3 (R95): 0 for "no bit flipped", otherwise the index 1 to 7 of the flipped bit. -/
abbrev Position := BitVec 3

/-- CHAR8 (R100): an 8-bit character code. -/
abbrev CharCode := BitVec 8

/-- PAYLOAD128 (R96): exactly 16 bytes, index 0 to 15. -/
abbrev Payload := Vector Byte 16

/-- FRAME256 (R98): exactly 32 coded bytes, index 0 to 31. -/
abbrev Frame := Vector CodedByte 32

/-- CLASS2 (R94), in the order of the codes 0b00 to 0b11. -/
inductive ErrClass where
  | noError
  | parityOnly
  | doubleUncorrectable
  | singleCorrected
  deriving DecidableEq, Repr, Inhabited

/-- The state of U4 (R26). -/
inductive TxState where
  | standby
  | transmit
  deriving DecidableEq, Repr, Inhabited

/-- The mode of U5 (R29); the fourth value of its 2-bit code cannot be written down. -/
inductive Mode where
  | idle
  | encode
  | decode
  deriving DecidableEq, Repr, Inhabited

/-- The displayed half of U5 (R31). -/
inductive Half where
  | low
  | high
  deriving DecidableEq, Repr, Inhabited

/-- The values of the open parameter IND_PARITY_ONLY (00_scope.md R8): the indicator class PARITY_ONLY lights. -/
inductive ParityIndicator where
  | ok
  | corrected
  | none
  deriving DecidableEq, Repr, Inhabited

/-- The three results of DEC (R135): the nibble, the flag `corrected` and the error position. -/
structure DecResult where
  nibble    : Nibble
  corrected : Bool
  errpos    : Position
  deriving DecidableEq, Repr

end Sys2Proof
end

