-- ==== Sys2Proof/Machine/Operands.lean ====
section
/-! DEFINITION. Every operand form of the block: nibbles and bytes (20_memory.md R64, R65), hexadecimal characters and
tokens (30_encoding.md R100 to R105), and the reading and writing of a port's wires, byte index i of a port at wires
8i+7 to 8i (R67). -/

namespace Sys2Proof.Machine

/-- `b[3:0]`. -/
def lowNibble (b : Byte) : Nibble := b.extractLsb' 0 4

/-- `b[7:4]`. -/
def highNibble (b : Byte) : Nibble := b.extractLsb' 4 4

/-- Byte assembly, `{hi, lo}` = `hi*16 + lo` (R254). -/
def joinNibbles (hi lo : Nibble) : Byte := hi ++ lo

/-- The character `#`, 0x23 (R100). The codes are PRESUMED by the spec (93 G1), log entry 17. -/
abbrev charHash : CharCode := 0x23#8
/-- The character `*`, 0x2A (R100). -/
abbrev charStar : CharCode := 0x2A#8
/-- The character `!`, 0x21 (R100). -/
abbrev charBang : CharCode := 0x21#8

/-- HEXVAL (R253): the value of a hexadecimal digit, `none` for the marker INVALID. -/
def hexValue (c : CharCode) : Option Nibble :=
  if 0x30#8 ≤ c ∧ c ≤ 0x39#8 then some ((c - 0x30#8).setWidth 4)
  else if 0x41#8 ≤ c ∧ c ≤ 0x46#8 then some ((c - 0x41#8 + 10#8).setWidth 4)
  else if 0x61#8 ≤ c ∧ c ≤ 0x66#8 then some ((c - 0x61#8 + 10#8).setWidth 4)
  else none

/-- The upper-case character of a digit value (R103), used by the encoder. -/
def hexDigit (n : Nibble) : CharCode :=
  if n < 10#4 then n.setWidth 8 + 0x30#8 else n.setWidth 8 - 10#8 + 0x41#8

/-- A token is a command (R102): two equal characters out of `#`, `*`, `!`. -/
def isCommand (c1 c2 : CharCode) : Bool :=
  c1 == c2 && (c1 == charHash || c1 == charStar || c1 == charBang)

/-- The byte a valid pair of hexadecimal digits denotes, first character high (R68, R103). -/
def tokenByte (c1 c2 : CharCode) : Option Byte :=
  match hexValue c1, hexValue c2 with
  | some hi, some lo => some (joinNibbles hi lo)
  | _, _ => none

/-- A token is invalid (R105): no command, and a character of it is no hexadecimal digit. -/
def isInvalidToken (c1 c2 : CharCode) : Bool :=
  !isCommand c1 c2 && (tokenByte c1 c2).isNone

/-- Why the wires of a port cannot be what the port carries. -/
inductive WireError where
  /-- The number of bytes is not the port's width. -/
  | wrongWidth
  /-- A bit is set above the wires the port has. -/
  | bitsOutsidePort
  /-- The button number is not below N_BUTTONS (R42): no such port exists. -/
  | noSuchButton
  deriving DecidableEq, Repr

/-- A port without operand wires. -/
def readNone {α : Type} (x : α) (ws : List Byte) : Except WireError α :=
  match ws with
  | [] => .ok x
  | _ => .error .wrongWidth

/-- An 8-bit port. -/
def readByte (ws : List Byte) : Except WireError Byte :=
  match ws with
  | [b] => .ok b
  | _ => .error .wrongWidth

/-- A 4-bit port. -/
def readNibble (ws : List Byte) : Except WireError Nibble :=
  match ws with
  | [b] => if b < 16#8 then .ok (b.setWidth 4) else .error .bitsOutsidePort
  | _ => .error .wrongWidth

/-- The value of a 1-bit wire. -/
def bitOf (b : Byte) : Except WireError Bool :=
  if b = 0#8 then .ok false else if b = 1#8 then .ok true else .error .bitsOutsidePort

/-- A 1-bit port. -/
def readBit (ws : List Byte) : Except WireError Bool :=
  match ws with
  | [b] => bitOf b
  | _ => .error .wrongWidth

/-- A token register: the two characters in arrival order (R101). -/
def readToken (ws : List Byte) : Except WireError (CharCode × CharCode) :=
  match ws with
  | [c1, c2] => .ok (c1, c2)
  | _ => .error .wrongWidth

/-- A port of n bytes (R67, R71): exactly n of them. -/
def readBytes (n : Nat) (ws : List Byte) : Except WireError (Vector Byte n) :=
  if h : ws.length = n then .ok ⟨ws.toArray, by simpa using h⟩ else .error .wrongWidth

/-- A time of any width (TIME_W is open, R8), least significant byte first. -/
def timeOfBytes : List Byte → Nat
  | [] => 0
  | b :: bs => b.toNat + 256 * timeOfBytes bs

/-- The bytes of a time, least significant first; `fuel` bounds their number. -/
def bytesOfTime : Nat → Nat → List Byte
  | 0, _ => []
  | fuel + 1, t => if t = 0 then [] else BitVec.ofNat 8 t :: bytesOfTime fuel (t / 256)

/-- SAMPLE (R106): the raw level, then the time. -/
def readSample (ws : List Byte) : Except WireError (Bool × Nat) :=
  match ws with
  | [] => .error .wrongWidth
  | r :: ts => (bitOf r).map fun raw => (raw, timeOfBytes ts)

/-- The wire of a bit. -/
def byteOfBit (b : Bool) : Byte := if b then 1#8 else 0#8

/-- The wires of a sample. -/
def sampleBytes (raw : Bool) (now : Nat) : List Byte := byteOfBit raw :: bytesOfTime now now

/-- A button number within the build (R42). -/
def checkButton {α : Type} (n : Nat) (id : Nat) (r : Except WireError α) : Except WireError α :=
  if id < n then r else .error .noSuchButton

end Sys2Proof.Machine
end

