-- ==== Sys2Proof/Syntax.lean ====
section
/-! DEFINITION. The operations of the block: one constructor for each of the 27 rows of spec/opcode_table.json
(30_encoding.md R107), in the table's order, with the operands the rule of each gives it. -/

namespace Sys2Proof

inductive Instr where
  /-- ENC (R130). -/
  | enc (value : Nibble)
  /-- SYN (R132). -/
  | syn (coded : CodedByte)
  /-- PAR (R133). -/
  | par (coded : CodedByte)
  /-- DEC (R135). -/
  | dec (coded : CodedByte)
  /-- CLS (R136). -/
  | cls (coded : CodedByte)
  /-- PKT_ENC (R160). -/
  | pktEnc (payload : Payload)
  /-- PKT_DEC (R161). -/
  | pktDec (frame : Frame)
  /-- Q_PUSH (R176). -/
  | qPush (payload : Payload)
  /-- Q_POP (R177); internal to the block. -/
  | qPop
  /-- TX_POLL (R201). -/
  | txPoll
  /-- TX_FETCH (R202). -/
  | txFetch
  /-- TX_SEND (R203); its label says that `tx_gnt` = 1 on the step. -/
  | txSend
  /-- TX_HOLD (R204); its label says that `tx_gnt` = 0 on the step. -/
  | txHold
  /-- DB_SAMPLE (R227). -/
  | dbSample (id : Nat) (raw : Bool) (now : Nat)
  /-- PRESS_COUNT (R228). -/
  | pressCount (id : Nat)
  /-- PRESS_RESET (R229). -/
  | pressReset (id : Nat)
  /-- CHAR_IN (R251). -/
  | charIn (ch : CharCode)
  /-- HEXVAL (R253); a function inside the token rules. -/
  | hexval (c : CharCode)
  /-- TOK_CMD_ENCODE (R256), token 0x2323. -/
  | tokCmdEncode
  /-- TOK_CMD_DECODE (R257), token 0x2A2A. -/
  | tokCmdDecode
  /-- TOK_CMD_IDLE (R258), token 0x2121. -/
  | tokCmdIdle
  /-- TOK_INVALID (R259), with the two characters of the token. -/
  | tokInvalid (c1 c2 : CharCode)
  /-- TOK_DATA_IDLE (R260), with the assembled data byte (R254). -/
  | tokDataIdle (b : Byte)
  /-- TOK_DATA_ENCODE (R261), with the assembled data byte. -/
  | tokDataEncode (b : Byte)
  /-- TOK_DATA_DECODE (R262), with the assembled data byte. -/
  | tokDataDecode (b : Byte)
  /-- TOGGLE_HALF (R264). -/
  | toggleHalf
  /-- RESET (R330). -/
  | reset
  deriving DecidableEq, Repr

end Sys2Proof
end

