-- ==== Sys2Proof/Machine/Ports.lean ====
section
/-! DEFINITION. The selecting points of the block (30_encoding.md R107, column "selected by"), a stimulus (a point
selected, with the value on its operand wires), the part of the state a selection depends on, and the outputs
(results and events, 00_scope.md R13). -/

namespace Sys2Proof.Machine

/-- The selecting points of R107. `pop`, `hex` and `token` lie inside the block; every other one is a port. -/
inductive Select where
  /-- `enc_nibble` to `enc_code` (R143). -/
  | enc
  /-- `dec_code` to `dec_syn`. -/
  | syn
  /-- `dec_code` to `dec_perr`. -/
  | par
  /-- `dec_code` to `dec_nibble`, `dec_corrected`, `dec_errpos`. -/
  | dec
  /-- `dec_code` to `dec_class`. -/
  | cls
  /-- `pe_payload` to `pe_frame` (R164). -/
  | pktEnc
  /-- `pd_frame` to `pd_payload`. -/
  | pktDec
  /-- `push_valid` with `push_payload` (R176). -/
  | push
  /-- The Q_POP that U4 issues (R177): inside the block. -/
  | pop
  /-- A turn of the agent TXP, with the value of `tx_gnt` on it (R200). -/
  | txp
  /-- `smp_valid[id]` with `raw[id]` and `now` (R237). -/
  | sample (id : Nat)
  /-- The output `count[id]`. -/
  | pressCount (id : Nat)
  /-- `prst[id]`. -/
  | pressReset (id : Nat)
  /-- `ch_valid` with `ch` (R100). -/
  | ch
  /-- The HEXVAL of the token rules (R253): inside the block. -/
  | hex
  /-- The completed token (R252): inside the block. -/
  | token
  /-- The `toggle` input of U5 (R264). -/
  | toggle
  /-- `rst` (R330). -/
  | rst
  deriving DecidableEq, Repr

/-- The point is a port of the block: something outside U1 to U6 can select it (R9, R107). -/
def Select.external : Select → Bool
  | .pop => false
  | .hex => false
  | .token => false
  | .enc => true
  | .syn => true
  | .par => true
  | .dec => true
  | .cls => true
  | .pktEnc => true
  | .pktDec => true
  | .push => true
  | .txp => true
  | .sample _ => true
  | .pressCount _ => true
  | .pressReset _ => true
  | .ch => true
  | .toggle => true
  | .rst => true

/-- One selection: the point, and the bytes on its operand wires, byte 0 in the lowest wires (R67). -/
structure Stimulus where
  select : Select
  wires  : List Byte
  deriving DecidableEq, Repr

/-- What a selection depends on besides its own wires (R107): the states of U4 and U5, `empty`, and N_BUTTONS. -/
structure Context where
  txState  : TxState
  qEmpty   : Bool
  mode     : Mode
  nButtons : Nat
  deriving DecidableEq, Repr

/-- What a step puts out: the result of an operation to its caller or port, or an event (R13). -/
inductive Output where
  /-- The result of ENC on `enc_code`. -/
  | encCode (c : CodedByte)
  /-- The result of SYN on `dec_syn`. -/
  | decSyn (s : Syndrome)
  /-- The result of PAR on `dec_perr`. -/
  | decPerr (p : Bool)
  /-- The results of DEC on `dec_nibble`, `dec_corrected`, `dec_errpos`. -/
  | decResult (r : DecResult)
  /-- The result of CLS on `dec_class`. -/
  | decClass (c : ErrClass)
  /-- The result of PKT_ENC on `pe_frame`. -/
  | peFrame (f : Frame)
  /-- The result of PKT_DEC on `pd_payload`. -/
  | pdPayload (p : Payload)
  /-- The result `accepted` of Q_PUSH. -/
  | accepted (a : Bool)
  /-- The result of Q_POP, `none` for the source's "none". -/
  | popped (p : Option Payload)
  /-- The result of HEXVAL, `none` for INVALID. -/
  | hexResult (n : Option Nibble)
  /-- The result of PRESS_COUNT on `count[id]`. -/
  | countValue (id : Nat) (n : Nat)
  /-- The event `transmit(frame)`: `tx_valid` with `tx_frame_o` (R207). -/
  | transmit (f : Frame)
  /-- The event `status_toggle` (R207). -/
  | statusToggle
  /-- The event `press_event(id)` (R230). -/
  | pressEvent (id : Nat)
  /-- The event `log_error` (R268). -/
  | logError
  deriving DecidableEq, Repr

end Sys2Proof.Machine
end

