-- ==== Sys2Proof/WellFormed.lean ====
section
/-! DEFINITION. What an operation must satisfy beyond its operands' types: a button exists in the build (10_state.md
R42) and the token of TOK_INVALID is an invalid one (30_encoding.md R105). -/

namespace Sys2Proof

/-- Well-formedness in a build of `n` buttons. -/
def Instr.wellFormed (n : Nat) : Instr → Bool
  | .dbSample id _ _ => decide (id < n)
  | .pressCount id => decide (id < n)
  | .pressReset id => decide (id < n)
  | .tokInvalid c1 c2 => Machine.isInvalidToken c1 c2
  | .enc _ => true
  | .syn _ => true
  | .par _ => true
  | .dec _ => true
  | .cls _ => true
  | .pktEnc _ => true
  | .pktDec _ => true
  | .qPush _ => true
  | .qPop => true
  | .txPoll => true
  | .txFetch => true
  | .txSend => true
  | .txHold => true
  | .charIn _ => true
  | .hexval _ => true
  | .tokCmdEncode => true
  | .tokCmdDecode => true
  | .tokCmdIdle => true
  | .tokDataIdle _ => true
  | .tokDataEncode _ => true
  | .tokDataDecode _ => true
  | .toggleHalf => true
  | .reset => true

end Sys2Proof
end

