-- ==== Sys2Proof/Decode.lean ====
section
/-! DEFINITION. Decoding: from a selected point, the value on its wires and the state a selection depends on to the
operation selected (30_encoding.md R102 to R107, R209 of 43_transmit_pipeline.md), total on any bytes and rejecting by
name; then the encoder, from the same rules; then the reading of a word of spec/opcode_table.json. -/

namespace Sys2Proof

open Machine

/-- The operation a completed token selects (R104, R252): commands first, then validity, then the mode. -/
def decodeToken (m : Mode) (c1 c2 : CharCode) : Instr :=
  if c1 = charHash ∧ c2 = charHash then .tokCmdEncode
  else if c1 = charStar ∧ c2 = charStar then .tokCmdDecode
  else if c1 = charBang ∧ c2 = charBang then .tokCmdIdle
  else
    match tokenByte c1 c2 with
    | none => .tokInvalid c1 c2
    | some b =>
      match m with
      | .idle => .tokDataIdle b
      | .encode => .tokDataEncode b
      | .decode => .tokDataDecode b

/-- The operation a turn of TXP takes (R200, R209): exactly one of four. -/
def txpTurn (t : TxState) (qEmpty gnt : Bool) : Instr :=
  match t, qEmpty, gnt with
  | .standby, true, _ => .txPoll
  | .standby, false, _ => .txFetch
  | .transmit, _, true => .txSend
  | .transmit, _, false => .txHold

/-- The operation a stimulus selects, or why its wires are none the port can carry. -/
def decode (c : Context) (st : Stimulus) : Except WireError Instr :=
  match st.select with
  | .enc => (readNibble st.wires).map .enc
  | .syn => (readByte st.wires).map .syn
  | .par => (readByte st.wires).map .par
  | .dec => (readByte st.wires).map .dec
  | .cls => (readByte st.wires).map .cls
  | .pktEnc => (readBytes 16 st.wires).map .pktEnc
  | .pktDec => (readBytes 32 st.wires).map .pktDec
  | .push => (readBytes 16 st.wires).map .qPush
  | .pop => readNone .qPop st.wires
  | .txp => (readBit st.wires).map (txpTurn c.txState c.qEmpty)
  | .sample id => checkButton c.nButtons id ((readSample st.wires).map fun x => .dbSample id x.1 x.2)
  | .pressCount id => checkButton c.nButtons id (readNone (.pressCount id) st.wires)
  | .pressReset id => checkButton c.nButtons id (readNone (.pressReset id) st.wires)
  | .ch => (readByte st.wires).map .charIn
  | .hex => (readByte st.wires).map .hexval
  | .token => (readToken st.wires).map fun x => decodeToken c.mode x.1 x.2
  | .toggle => readNone .toggleHalf st.wires
  | .rst => readNone .reset st.wires

/-- The operation's selecting condition on the state (R107): which of U4's operations, and which data-token
operation, the state lets be selected. Every other operation is selected by its own point alone. -/
def enabledIn (c : Context) : Instr → Bool
  | .txPoll => c.txState == .standby && c.qEmpty
  | .txFetch => c.txState == .standby && !c.qEmpty
  | .txSend => c.txState == .transmit
  | .txHold => c.txState == .transmit
  | .tokDataIdle _ => c.mode == .idle
  | .tokDataEncode _ => c.mode == .encode
  | .tokDataDecode _ => c.mode == .decode
  | .enc _ => true
  | .syn _ => true
  | .par _ => true
  | .dec _ => true
  | .cls _ => true
  | .pktEnc _ => true
  | .pktDec _ => true
  | .qPush _ => true
  | .qPop => true
  | .dbSample _ _ _ => true
  | .pressCount _ => true
  | .pressReset _ => true
  | .charIn _ => true
  | .hexval _ => true
  | .tokCmdEncode => true
  | .tokCmdDecode => true
  | .tokCmdIdle => true
  | .tokInvalid _ _ => true
  | .toggleHalf => true
  | .reset => true

/-- The two characters of a data byte, high digit first, in upper case (R103, R110). -/
def dataToken (b : Byte) : List Byte := [hexDigit (highNibble b), hexDigit (lowNibble b)]

/-- The point an operation is selected at and the value on its wires, from the formats of R90 and the column
"selected by" of R107. -/
def encode : Instr → Stimulus
  | .enc v => ⟨.enc, [v.setWidth 8]⟩
  | .syn c => ⟨.syn, [c]⟩
  | .par c => ⟨.par, [c]⟩
  | .dec c => ⟨.dec, [c]⟩
  | .cls c => ⟨.cls, [c]⟩
  | .pktEnc p => ⟨.pktEnc, p.toList⟩
  | .pktDec f => ⟨.pktDec, f.toList⟩
  | .qPush p => ⟨.push, p.toList⟩
  | .qPop => ⟨.pop, []⟩
  | .txPoll => ⟨.txp, [byteOfBit false]⟩
  | .txFetch => ⟨.txp, [byteOfBit false]⟩
  | .txSend => ⟨.txp, [byteOfBit true]⟩
  | .txHold => ⟨.txp, [byteOfBit false]⟩
  | .dbSample id raw now => ⟨.sample id, sampleBytes raw now⟩
  | .pressCount id => ⟨.pressCount id, []⟩
  | .pressReset id => ⟨.pressReset id, []⟩
  | .charIn ch => ⟨.ch, [ch]⟩
  | .hexval c => ⟨.hex, [c]⟩
  | .tokCmdEncode => ⟨.token, [charHash, charHash]⟩
  | .tokCmdDecode => ⟨.token, [charStar, charStar]⟩
  | .tokCmdIdle => ⟨.token, [charBang, charBang]⟩
  | .tokInvalid c1 c2 => ⟨.token, [c1, c2]⟩
  | .tokDataIdle b => ⟨.token, dataToken b⟩
  | .tokDataEncode b => ⟨.token, dataToken b⟩
  | .tokDataDecode b => ⟨.token, dataToken b⟩
  | .toggleHalf => ⟨.toggle, []⟩
  | .reset => ⟨.rst, []⟩

/-- The bytes of a port of `n` bytes whose value is `w`, byte i from bits 8i+7 to 8i (R67). -/
def portBytes : Nat → Nat → List Byte
  | 0, _ => []
  | n + 1, w => BitVec.ofNat 8 w :: portBytes n (w / 256)

/-- The stimulus a word of spec/opcode_table.json stands for. The table gives no word that says which operation is
meant (R107: "the block has no opcode field"), so the format's width says it: 16 bits are a token (R101: c1 in bits
15 to 8), 8 bits a character, 4 bits a nibble, 128 bits a pushed payload, 256 bits a frame to decode, and no bits
at all a turn of TXP with the lock withheld. DESIGN CHOICE, log entry 5. -/
def tableStimulus (nbits w : Nat) : Option Stimulus :=
  if nbits = 16 then some ⟨.token, [BitVec.ofNat 8 (w / 256), BitVec.ofNat 8 w]⟩
  else if nbits = 8 then some ⟨.ch, [BitVec.ofNat 8 w]⟩
  else if nbits = 4 then some ⟨.enc, [BitVec.ofNat 8 w]⟩
  else if nbits = 128 then some ⟨.push, portBytes 16 w⟩
  else if nbits = 256 then some ⟨.pktDec, portBytes 32 w⟩
  else if nbits = 0 then some ⟨.txp, [byteOfBit false]⟩
  else none

/-- The selection state right after reset (R331): Standby, queue empty, Idle, and the one button every build has. -/
def resetContext : Context := ⟨.standby, true, .idle, 1⟩

/-- The operation the decoder reads from a word of spec/opcode_table.json in the state right after reset. -/
def decodeTableWord (nbits w : Nat) : Option Instr :=
  match tableStimulus nbits w with
  | none => none
  | some st => (decode resetContext st).toOption

end Sys2Proof
end

