-- ==== Sys2Proof/Config.lean ====
section
/-! DEFINITION. What a build of the block fixes (00_scope.md R7, R8) and the values the spec leaves free
(93_implementation_defined.md). The open parameters are opaque constants gathered in `Config.build`; the free values
are opaque functions of the counter `State.freeIdx`. None has a body, so no proof can see a value. -/

namespace Sys2Proof

/-- The functional open parameters of R8 (93 X13), one record for a whole run. N_BUTTONS is the length of
`assertedLevel`. The timing parameters of R8 have no functional effect (R352, 93 X12) and have no field. DESIGN CHOICE, log
entries 3, 9 and 16. -/
structure Params where
  /-- DEBOUNCE_WINDOW. -/
  debounceWindow    : Nat
  /-- ASSERTED_LEVEL[id], one entry for each button. -/
  assertedLevel     : List Bool
  /-- TOGGLE_BUTTON. -/
  toggleButton      : Nat
  /-- CMD_SAME_MODE_RESETS. -/
  cmdSameModeResets : Bool
  /-- IND_PARITY_ONLY. -/
  indParityOnly     : ParityIndicator
  deriving DecidableEq, Repr

/-- N_BUTTONS (R8). -/
abbrev Params.nButtons (p : Params) : Nat := p.assertedLevel.length

namespace Config

/-- QUEUE_DEPTH (R7). -/
abbrev queueDepth : Nat := 10

/-- DEBOUNCE_WINDOW of the build. -/
opaque debounceWindow : Nat
/-- ASSERTED_LEVEL of button 0, which every build has (N_BUTTONS is at least 1). -/
opaque firstLevel : Bool
/-- ASSERTED_LEVEL of buttons 1 up. -/
opaque otherLevels : List Bool
/-- Selects TOGGLE_BUTTON among the buttons of the build. -/
opaque toggleChoice : Nat
/-- CMD_SAME_MODE_RESETS of the build. -/
opaque cmdSameModeResets : Bool
/-- IND_PARITY_ONLY of the build. -/
opaque indParityOnly : ParityIndicator

/-- The parameters of the build that `State.reset` describes. -/
def build : Params where
  debounceWindow    := debounceWindow
  assertedLevel     := firstLevel :: otherLevels
  toggleButton      := toggleChoice % (otherLevels.length + 1)
  cmdSameModeResets := cmdSameModeResets
  indParityOnly     := indParityOnly

/-- Unspecified bytes: `pend_char`, `code_lo`, `code_hi` after RESET (R330, 93 X2). -/
opaque freeByte : Nat → Byte
/-- Unspecified frames: `tx_frame` after RESET and after TX_SEND (R27, R203, 93 X1). -/
opaque freeFrame : Nat → Frame
/-- Unspecified nibbles: `dec_nib` after RESET (R33, 93 X2). -/
opaque freeNibble : Nat → Nibble
/-- Unspecified classes: `last_class` after RESET (R35, 93 X2). -/
opaque freeClass : Nat → ErrClass
/-- What TXP does at a step for which nothing is presented: no step of its own, or a turn with the lock grant `tx_gnt` of
that value (93 X10, X11). -/
opaque unscheduledTurn : Nat → Option Bool

end Config
end Sys2Proof
end

