-- ==== Sys2Proof/Machine/State.lean ====
section
/-! DEFINITION. The state of the block, all of 10_state.md R20 as plain data, with five fields of the model's own
(`build`, `inputs`, `cycle`, `outputs`, `freeIdx`); the reasons a step can stop; and the state right after reset (R330). -/

namespace Sys2Proof.Machine

/-- The block has no fault: no condition of it traps or stops an agent (60_exceptions.md R300), so nobody raises
one and the type has no constructor. DEDUCED, log entry 18; safe. -/
inductive Fault where
  deriving DecidableEq, Repr

/-- Why there is no step. Every reason but the first is the absence of a step in the spec's own transition system. -/
inductive Refusal where
  /-- Raised by an arm of `exec` whose instruction has no meaning yet; no arm raises it now. Safe. -/
  | notModelled (mnemonic : String)
  /-- Raised by a meaning whose selecting condition (R107) does not hold in the state: the transition system has no
  such step (R10, "subject only to each step's enabling condition"). `step` never raises it. DEDUCED, log entry 7; safe. -/
  | notEnabled (mnemonic : String)
  /-- Raised by DB_SAMPLE, PRESS_COUNT and PRESS_RESET for a button number not below N_BUTTONS, which no port can
  carry (R42). `step` meets it first as `badWires`. DESIGN CHOICE, log entry 19; safe. -/
  | noSuchButton (id : Nat)
  /-- Raised by DB_SAMPLE for a time earlier than the button's last sample, which the spec says to refuse (R232,
  93_implementation_defined.md X6). DESIGN CHOICE, log entry 8; safe. -/
  | timeBackwards (id : Nat)
  /-- Raised by the fetch for a stimulus whose wires are none its port has; the ports cannot carry it. DESIGN
CHOICE, log entry 6; safe. -/
  | badWires (e : WireError)
  /-- Raised by the fetch for a stimulus at a point inside the block (Q_POP, HEXVAL, a token), which nothing outside
  can select (R107, R177). DESIGN CHOICE, log entry 6; safe. -/
  | internalPoint
  deriving DecidableEq, Repr

/-- PressState of one button (R37). -/
structure PressState where
  /-- `last_time`: the time of the last sample (90_conflicts.md C2). -/
  lastTime : Nat
  /-- `pressed`. -/
  pressed  : Bool
  /-- `count`, an unbounded natural (R235). DESIGN CHOICE, log entry 9. -/
  count    : Nat
  deriving DecidableEq, Repr

end Sys2Proof.Machine

namespace Sys2Proof.Machine

structure State where
  /-- `q`, U3 (R23): the queued payloads, oldest first. -/
  q         : List Payload
  /-- `tx_state`, U4 (R26). -/
  txState   : TxState
  /-- `tx_frame`, U4 (R27). -/
  txFrame   : Frame
  /-- `mode`, U5 (R29). -/
  mode      : Mode
  /-- `pend_valid`, U5 (R30). -/
  pendValid : Bool
  /-- `pend_char`, U5 (R30). -/
  pendChar  : CharCode
  /-- `half`, U5 (R31). -/
  half      : Half
  /-- `code_lo`, U5 (R32). -/
  codeLo    : CodedByte
  /-- `code_hi`, U5 (R32). -/
  codeHi    : CodedByte
  /-- `dec_nib`, U5 (R33). -/
  decNib    : Nibble
  /-- `disp_valid`, U5 (R34). -/
  dispValid : Bool
  /-- `last_valid`, U5 (R35). -/
  lastValid : Bool
  /-- `last_class`, U5 (R35). -/
  lastClass : ErrClass
  /-- `last_time`, `pressed`, `count`, U6 (R37), indexed by button. -/
  buttons   : List PressState
  /-- The model's own: the parameters of the build (R8), never written (R22). DESIGN CHOICE, log entry 3. -/
  build     : Params
  /-- The model's own: what the environment presents, in order (R9, R10); each step takes one. DESIGN CHOICE, log
  entry 1. -/
  inputs    : List Stimulus
  /-- The model's own: what the environment presents over and over once `inputs` is used up (R211, 93 X11); no step
  writes it. DESIGN CHOICE, log entry 1. -/
  cycle     : List Stimulus
  /-- The model's own: every result and event so far, oldest first (93 X15). DESIGN CHOICE, log entry 10. -/
  outputs   : List Output
  /-- The model's own: how many free values were used so far. DESIGN CHOICE, log entry 2. -/
  freeIdx   : Nat
  deriving DecidableEq, Repr

/-- PressState after reset (R37). -/
def PressState.reset : PressState := { lastTime := 0, pressed := false, count := 0 }

/-- The state right after reset (R330, the column "reset" of R20). The six registers the spec leaves unspecified hold
free values (93 X1, X2). DESIGN CHOICE, log entry 2. -/
def State.reset : State where
  q         := []
  txState   := .standby
  txFrame   := Config.freeFrame 0
  mode      := .idle
  pendValid := false
  pendChar  := Config.freeByte 0
  half      := .low
  codeLo    := Config.freeByte 1
  codeHi    := Config.freeByte 2
  decNib    := Config.freeNibble 0
  dispValid := false
  lastValid := false
  lastClass := Config.freeClass 0
  buttons   := Config.build.assertedLevel.map fun _ => PressState.reset
  build     := Config.build
  inputs    := []
  cycle     := []
  outputs   := []
  freeIdx   := 3

end Sys2Proof.Machine
end

