-- ==== Sys2Proof/Machine/Ops.lean ====
section
/-! DEFINITION. The named operations the meanings share: putting out a result or event, taking a stimulus, the queue
as storage (R60, R61), a button's PressState, and the registers RESET writes. There is no operation for taking an
exception and none for returning from one: nothing in the block traps, vectors, saves or restores (R300, R313, R314). -/

namespace Sys2Proof.Machine

/-- `emit` of R13: one more result or event, on this step. -/
def State.emit (s : State) (o : Output) : State := { s with outputs := s.outputs ++ [o] }

/-- The stimuli that remain to be taken. -/
def State.setInputs (s : State) (ins : List Stimulus) : State := { s with inputs := ins }

/-- What the environment presents next, and the state once it is taken: the head of `inputs`, or of `cycle` begun anew
when `inputs` is used up. -/
def State.presented (s : State) : Option (Stimulus × State) :=
  match s.inputs with
  | st :: rest => some (st, s.setInputs rest)
  | [] =>
    match s.cycle with
    | st :: rest => some (st, s.setInputs rest)
    | [] => none

/-- A free value was used. -/
def State.drawFree (s : State) (n : Nat) : State := { s with freeIdx := s.freeIdx + n }

/-- Writes the PressState of one button (R37, R225). -/
def State.setButton (s : State) (id : Nat) (b : PressState) : State :=
  { s with buttons := s.buttons.set id b }

/-- The queue accepts one more payload (R24, `push_ready`). -/
def State.hasRoom (s : State) : Bool := decide (s.q.length < Config.queueDepth)

/-- Q_PUSH on the storage (R176): append when there is room, otherwise change nothing. -/
def State.pushed (s : State) (p : Payload) : State :=
  if s.hasRoom then { s with q := s.q ++ [p] } else s

/-- Q_POP on the storage (R177): the oldest payload and the queue without it, or `none` and no change. -/
def State.takeOldest (s : State) : Option Payload × State :=
  match s.q with
  | [] => (none, s)
  | p :: rest => (some p, { s with q := rest })

/-- The registers RESET writes (R330), with the environment's side (`build`, `inputs`, `cycle`, `outputs`)
kept. -/
def State.afterReset (s : State) : State where
  q         := []
  txState   := .standby
  txFrame   := Config.freeFrame s.freeIdx
  mode      := .idle
  pendValid := false
  pendChar  := Config.freeByte s.freeIdx
  half      := .low
  codeLo    := Config.freeByte (s.freeIdx + 1)
  codeHi    := Config.freeByte (s.freeIdx + 2)
  decNib    := Config.freeNibble s.freeIdx
  dispValid := false
  lastValid := false
  lastClass := Config.freeClass s.freeIdx
  buttons   := s.build.assertedLevel.map fun _ => PressState.reset
  build     := s.build
  inputs    := s.inputs
  cycle     := s.cycle
  outputs   := s.outputs
  freeIdx   := s.freeIdx + 3

/-- What a selection depends on (R107). -/
def State.context (s : State) : Context where
  txState  := s.txState
  qEmpty   := s.q.isEmpty
  mode     := s.mode
  nButtons := s.build.nButtons

end Sys2Proof.Machine
end

