-- ==== Sys2Proof/Machine/Debounce.lean ====
section
/-! DEFINITION. U6 DebouncedInput (44_debounced_input.md): DB_SAMPLE, PRESS_COUNT and PRESS_RESET, each on one button's
PressState (R225). -/

namespace Sys2Proof.Machine

/-- The condition of DB_SAMPLE's first branch (R227): a longer quiet time than the window (strictly, R231 (a)), not
already pressed, and the asserted level. -/
def registersPress (window : Nat) (asserted : Bool) (b : PressState) (now : Nat) : Bool :=
  decide (now - b.lastTime > window) && !b.pressed && asserted

/-- PressState after a sample (R227, R238); `last_time` is refreshed in every branch. -/
def PressState.sampled (window : Nat) (asserted : Bool) (b : PressState) (now : Nat) : PressState :=
  if registersPress window asserted b now then { lastTime := now, pressed := true, count := b.count + 1 }
  else if !asserted then { b with lastTime := now, pressed := false }
  else { b with lastTime := now }

/-- The raw level is the asserted level of the button (R225, R227). -/
def State.isAsserted (s : State) (id : Nat) (raw : Bool) : Bool := s.build.assertedLevel[id]? == some raw

/-- This sample registers a press of button `id`, so `press_event(id)` is emitted (R230). -/
def State.pressRegisters (s : State) (id : Nat) (raw : Bool) (now : Nat) : Bool :=
  match s.buttons[id]? with
  | some b => registersPress s.build.debounceWindow (s.isAsserted id raw) b now
  | none => false

/-- DB_SAMPLE (R227). A time earlier than the last sample's is refused (R232, 93 X6). -/
def execDbSample (id : Nat) (raw : Bool) (now : Nat) (s : State) : Host.Outcome State Fault Refusal :=
  match s.buttons[id]? with
  | none => .refused (.noSuchButton id)
  | some b =>
    if now < b.lastTime then .refused (.timeBackwards id)
    else
      let t := s.setButton id (b.sampled s.build.debounceWindow (s.isAsserted id raw) now)
      if s.pressRegisters id raw now then .next (t.emit (.pressEvent id)) else .next t

/-- PRESS_COUNT (R228): the counter, without any effect on it. -/
def execPressCount (id : Nat) (s : State) : Host.Outcome State Fault Refusal :=
  match s.buttons[id]? with
  | none => .refused (.noSuchButton id)
  | some b => .next (s.emit (.countValue id b.count))

/-- PRESS_RESET (R229): the counter to zero; `pressed` and `last_time` stay. -/
def execPressReset (id : Nat) (s : State) : Host.Outcome State Fault Refusal :=
  match s.buttons[id]? with
  | none => .refused (.noSuchButton id)
  | some b => .next (s.setButton id { b with count := 0 })

end Sys2Proof.Machine
end

