-- ==== Sys2Proof/Machine/Codec.lean ====
section
/-! DEFINITION. U1 HammingCodec (40_hamming_codec.md): the five pure functions, and the operations ENC, SYN, PAR, DEC
and CLS, each of which puts out the value of its function and writes no state (R142). -/

namespace Sys2Proof.Machine

/-- `xor7` (R14): the exclusive or of bits 1 to 7. -/
def xor7 (v : Byte) : Bool := v[1] ^^ v[2] ^^ v[3] ^^ v[4] ^^ v[5] ^^ v[6] ^^ v[7]

/-- ENC (R130). -/
def encNibble (value : Nibble) : CodedByte :=
  let d0 := value[0]
  let d1 := value[1]
  let d2 := value[2]
  let d3 := value[3]
  let h0 := d1 ^^ d2 ^^ d3
  let h1 := d0 ^^ d2 ^^ d3
  let h2 := d0 ^^ d1 ^^ d3
  let body : Byte :=
    BitVec.ofBool d3 ++ BitVec.ofBool d2 ++ BitVec.ofBool d1 ++ BitVec.ofBool d0 ++
    BitVec.ofBool h2 ++ BitVec.ofBool h1 ++ BitVec.ofBool h0 ++ 0#1
  body ||| (BitVec.ofBool (xor7 body)).setWidth 8

/-- SYN (R132). -/
def syndrome (coded : CodedByte) : Syndrome :=
  let d0 := coded[4]
  let d1 := coded[5]
  let d2 := coded[6]
  let d3 := coded[7]
  let h0 := coded[1]
  let h1 := coded[2]
  let h2 := coded[3]
  let s0 := d1 ^^ d2 ^^ d3 ^^ h0
  let s1 := d0 ^^ d2 ^^ d3 ^^ h1
  let s2 := d0 ^^ d1 ^^ d3 ^^ h2
  BitVec.ofBool s2 ++ BitVec.ofBool s1 ++ BitVec.ofBool s0

/-- PAR (R133). -/
def parityError (coded : CodedByte) : Bool := xor7 coded ^^ coded[0]

/-- The syndrome-to-bit table POS (R134), indexed by S as a number; constant data. -/
def posTable : Vector Position 8 := #v[0#3, 1#3, 2#3, 6#3, 3#3, 5#3, 4#3, 7#3]

/-- `POS[S]` (R134), which is also `errpos` (R95). -/
def errorPosition (s : Syndrome) : Position := posTable[s.toFin]

/-- DEC (R135). -/
def decodeByte (coded : CodedByte) : DecResult :=
  let s := syndrome coded
  if s = 0#3 then { nibble := highNibble coded, corrected := false, errpos := 0#3 }
  else
    let k := errorPosition s
    let fixed := coded ^^^ (1#8 <<< k.toNat)
    { nibble := highNibble fixed, corrected := true, errpos := k }

/-- CLS (R136). -/
def classify (coded : CodedByte) : ErrClass :=
  let s := syndrome coded
  let p := parityError coded
  if s = 0#3 ∧ p = false then .noError
  else if s = 0#3 ∧ p = true then .parityOnly
  else if p = false then .doubleUncorrectable
  else .singleCorrected

/-- The operation ENC: `enc_code` = ENC(`enc_nibble`) (R130, R143). -/
def execEnc (value : Nibble) (s : State) : Host.Outcome State Fault Refusal :=
  .next (s.emit (.encCode (encNibble value)))

/-- The operation SYN: `dec_syn` = SYN(`dec_code`) (R132, R143). -/
def execSyn (coded : CodedByte) (s : State) : Host.Outcome State Fault Refusal :=
  .next (s.emit (.decSyn (syndrome coded)))

/-- The operation PAR: `dec_perr` = PAR(`dec_code`) (R133, R143). -/
def execPar (coded : CodedByte) (s : State) : Host.Outcome State Fault Refusal :=
  .next (s.emit (.decPerr (parityError coded)))

/-- The operation DEC: `dec_nibble`, `dec_corrected`, `dec_errpos` (R135, R143). -/
def execDec (coded : CodedByte) (s : State) : Host.Outcome State Fault Refusal :=
  .next (s.emit (.decResult (decodeByte coded)))

/-- The operation CLS: `dec_class` = CLS(`dec_code`) (R136, R143). -/
def execCls (coded : CodedByte) (s : State) : Host.Outcome State Fault Refusal :=
  .next (s.emit (.decClass (classify coded)))

end Sys2Proof.Machine
end

