-- ==== Sys2Proof/Machine/Interactive.lean ====
section
/-! DEFINITION. U5 InteractiveCodecFSM (45_interactive_fsm.md): CHAR_IN with the dispatch of a completed token, HEXVAL,
the command tokens, the invalid token, the data tokens in each mode, and TOGGLE_HALF. -/

namespace Sys2Proof.Machine

/-- ENTER (R255): on an effective mode entry `half`, `last_valid` and `disp_valid` are cleared; `mode` is written. -/
def State.enterMode (s : State) (m : Mode) : State :=
  if s.mode ≠ m ∨ s.build.cmdSameModeResets = true then
    { s with half := .low, lastValid := false, dispValid := false, mode := m }
  else { s with mode := m }

/-- The other half (R264). -/
def otherHalf : Half → Half
  | .low => .high
  | .high => .low

/-- HEXVAL (R253): the result is the digit's value or INVALID; no state is written. -/
def execHexval (c : CharCode) (s : State) : Host.Outcome State Fault Refusal :=
  .next (s.emit (.hexResult (hexValue c)))

/-- TOK_CMD_ENCODE (R256), in every mode. -/
def execTokCmdEncode (s : State) : Host.Outcome State Fault Refusal := .next (s.enterMode .encode)

/-- TOK_CMD_DECODE (R257), in every mode. -/
def execTokCmdDecode (s : State) : Host.Outcome State Fault Refusal := .next (s.enterMode .decode)

/-- TOK_CMD_IDLE (R258), in every mode. -/
def execTokCmdIdle (s : State) : Host.Outcome State Fault Refusal := .next (s.enterMode .idle)

/-- TOK_INVALID (R259), in every mode: one `log_error`, no state. A token that is not invalid is not this operation's. -/
def execTokInvalid (c1 c2 : CharCode) (s : State) : Host.Outcome State Fault Refusal :=
  if isInvalidToken c1 c2 then .next (s.emit .logError) else .refused (.notEnabled "TOK_INVALID")

/-- TOK_DATA_IDLE (R260), in Idle: consumed and ignored. -/
def execTokDataIdle (_b : Byte) (s : State) : Host.Outcome State Fault Refusal :=
  match s.mode with
  | .idle => .next s
  | .encode => .refused (.notEnabled "TOK_DATA_IDLE")
  | .decode => .refused (.notEnabled "TOK_DATA_IDLE")

/-- TOK_DATA_ENCODE (R261), in Encode: both nibbles encoded, the display valid, `half` kept. -/
def execTokDataEncode (b : Byte) (s : State) : Host.Outcome State Fault Refusal :=
  match s.mode with
  | .encode =>
    .next { s with codeLo := encNibble (lowNibble b), codeHi := encNibble (highNibble b), dispValid := true }
  | .idle => .refused (.notEnabled "TOK_DATA_ENCODE")
  | .decode => .refused (.notEnabled "TOK_DATA_ENCODE")

/-- TOK_DATA_DECODE (R262), in Decode: nibble and class stored for every class, the uncorrectable one too. -/
def execTokDataDecode (b : Byte) (s : State) : Host.Outcome State Fault Refusal :=
  match s.mode with
  | .decode =>
    .next
      { s with decNib := (decodeByte b).nibble, lastClass := classify b, lastValid := true, dispValid := true }
  | .idle => .refused (.notEnabled "TOK_DATA_DECODE")
  | .encode => .refused (.notEnabled "TOK_DATA_DECODE")

/-- TOKEN (R252): the dispatch of a completed token, commands first, then validity, then the mode. -/
def dispatchToken (c1 c2 : CharCode) (s : State) : Host.Outcome State Fault Refusal :=
  if c1 = charHash ∧ c2 = charHash then execTokCmdEncode s
  else if c1 = charStar ∧ c2 = charStar then execTokCmdDecode s
  else if c1 = charBang ∧ c2 = charBang then execTokCmdIdle s
  else
    match tokenByte c1 c2 with
    | none => execTokInvalid c1 c2 s
    | some b =>
      match s.mode with
      | .idle => execTokDataIdle b s
      | .encode => execTokDataEncode b s
      | .decode => execTokDataDecode b s

/-- CHAR_IN (R251): a first character is stored; a second one completes the token, which acts in the same step. -/
def execCharIn (ch : CharCode) (s : State) : Host.Outcome State Fault Refusal :=
  if s.pendValid then dispatchToken s.pendChar ch { s with pendValid := false }
  else .next { s with pendChar := ch, pendValid := true }

/-- TOGGLE_HALF (R264), in every mode. -/
def execToggleHalf (s : State) : Host.Outcome State Fault Refusal := .next { s with half := otherHalf s.half }

end Sys2Proof.Machine
end

