-- ==== Sys2Proof/Machine/Packet.lean ====
section
/-! DEFINITION. U2 PacketCodec (41_packet_codec.md): the pure functions PKT_ENC and PKT_DEC and the operations that
put out their values (R164). -/

namespace Sys2Proof.Machine

/-- The nibble that frame byte `k` carries (R65): the low nibble of payload byte k/2 for an even k, the high nibble
for an odd one. -/
def frameNibble (payload : Payload) (k : Fin 32) : Nibble :=
  let b := payload[k.val / 2]
  if k.val % 2 = 0 then lowNibble b else highNibble b

/-- PKT_ENC (R160). -/
def packetEncode (payload : Payload) : Frame :=
  Vector.ofFn fun k : Fin 32 => encNibble (frameNibble payload k)

/-- PKT_DEC (R161). -/
def packetDecode (frame : Frame) : Payload :=
  Vector.ofFn fun i : Fin 16 =>
    joinNibbles (decodeByte frame[2 * i.val + 1]).nibble (decodeByte frame[2 * i.val]).nibble

/-- The operation PKT_ENC: `pe_frame` = PKT_ENC(`pe_payload`) (R160, R164). -/
def execPktEnc (payload : Payload) (s : State) : Host.Outcome State Fault Refusal :=
  .next (s.emit (.peFrame (packetEncode payload)))

/-- The operation PKT_DEC: `pd_payload` = PKT_DEC(`pd_frame`) (R161, R164). -/
def execPktDec (frame : Frame) (s : State) : Host.Outcome State Fault Refusal :=
  .next (s.emit (.pdPayload (packetDecode frame)))

end Sys2Proof.Machine
end

