-- ==== Sys2Proof/Machine/Queue.lean ====
section
/-! DEFINITION. U3 TransmitQueue (42_transmit_queue.md): Q_PUSH and Q_POP, one attempt each, over the storage
operations of Machine/Ops.lean. -/

namespace Sys2Proof.Machine

/-- Q_PUSH (R176): append and accept when fewer than ten payloads are queued, otherwise refuse and change nothing. -/
def execQPush (p : Payload) (s : State) : Host.Outcome State Fault Refusal :=
  .next ((s.pushed p).emit (.accepted s.hasRoom))

/-- Q_POP (R177): the oldest payload leaves and is the result; on an empty queue the result is "none". -/
def execQPop (s : State) : Host.Outcome State Fault Refusal :=
  .next (s.takeOldest.2.emit (.popped s.takeOldest.1))

end Sys2Proof.Machine
end

