-- ==== Sys2Proof/Machine/Pipeline.lean ====
section
/-! DEFINITION. U4 TransmitPipeline (43_transmit_pipeline.md): TX_POLL, TX_FETCH, TX_SEND and TX_HOLD. A label whose
enabling condition on the state does not hold is no step of the block and is refused by name; a turn of TXP
(`txpTurn`, Decode.lean) always selects the one that is enabled (R200). -/

namespace Sys2Proof.Machine

/-- TX_POLL (R201), enabled in Standby with an empty queue: the Q_POP of the poll returns "none" and nothing changes. -/
def execTxPoll (s : State) : Host.Outcome State Fault Refusal :=
  if s.txState = .standby ∧ s.q = [] then .next s.takeOldest.2 else .refused (.notEnabled "TX_POLL")

/-- TX_FETCH (R202), enabled in Standby with a payload queued: pop it, encode it, go to Transmit, in one step. -/
def execTxFetch (s : State) : Host.Outcome State Fault Refusal :=
  match s.txState, s.takeOldest with
  | .standby, (some p, t) => .next { t with txFrame := packetEncode p, txState := .transmit }
  | _, _ => .refused (.notEnabled "TX_FETCH")

/-- TX_SEND (R203), enabled in Transmit with the lock granted: hand the frame to the transmit capability, signal the
status toggle, go to Standby; the frame is not retained, so `tx_frame` holds a free value after it (R27, 93 X1).
DESIGN CHOICE, log entry 13. -/
def execTxSend (s : State) : Host.Outcome State Fault Refusal :=
  match s.txState with
  | .transmit =>
    .next
      { ((s.emit (.transmit s.txFrame)).emit .statusToggle).drawFree 1 with
        txState := .standby
        txFrame := Config.freeFrame s.freeIdx }
  | .standby => .refused (.notEnabled "TX_SEND")

/-- TX_HOLD (R204), enabled in Transmit with the lock withheld: nothing changes. -/
def execTxHold (s : State) : Host.Outcome State Fault Refusal :=
  match s.txState with
  | .transmit => .next s
  | .standby => .refused (.notEnabled "TX_HOLD")

end Sys2Proof.Machine
end

