-- ==== Sys2Proof/Machine/Reset.lean ====
section
/-! DEFINITION. RESET (70_reset_and_hazards.md R330). -/

namespace Sys2Proof.Machine

/-- RESET (R330): every element of R20 to its reset value, the unspecified ones to free values; no event. -/
def execReset (s : State) : Host.Outcome State Fault Refusal := .next s.afterReset

end Sys2Proof.Machine
end

