-- ==== Sys2Proof/Machine/Dispatch.lean ====
section
/-! DEFINITION. The meaning of every operation, one arm each, in the order of spec/opcode_table.json. -/

namespace Sys2Proof.Machine

def exec (i : Instr) (s : State) : Host.Outcome State Fault Refusal :=
  match i with
  | .enc value => Sys2Proof.Machine.execEnc value s
  | .syn coded => Sys2Proof.Machine.execSyn coded s
  | .par coded => Sys2Proof.Machine.execPar coded s
  | .dec coded => Sys2Proof.Machine.execDec coded s
  | .cls coded => Sys2Proof.Machine.execCls coded s
  | .pktEnc payload => Sys2Proof.Machine.execPktEnc payload s
  | .pktDec frame => Sys2Proof.Machine.execPktDec frame s
  | .qPush payload => Sys2Proof.Machine.execQPush payload s
  | .qPop => Sys2Proof.Machine.execQPop s
  | .txPoll => Sys2Proof.Machine.execTxPoll s
  | .txFetch => Sys2Proof.Machine.execTxFetch s
  | .txSend => Sys2Proof.Machine.execTxSend s
  | .txHold => Sys2Proof.Machine.execTxHold s
  | .dbSample id raw now => Sys2Proof.Machine.execDbSample id raw now s
  | .pressCount id => Sys2Proof.Machine.execPressCount id s
  | .pressReset id => Sys2Proof.Machine.execPressReset id s
  | .charIn ch => Sys2Proof.Machine.execCharIn ch s
  | .hexval c => Sys2Proof.Machine.execHexval c s
  | .tokCmdEncode => Sys2Proof.Machine.execTokCmdEncode s
  | .tokCmdDecode => Sys2Proof.Machine.execTokCmdDecode s
  | .tokCmdIdle => Sys2Proof.Machine.execTokCmdIdle s
  | .tokInvalid c1 c2 => Sys2Proof.Machine.execTokInvalid c1 c2 s
  | .tokDataIdle b => Sys2Proof.Machine.execTokDataIdle b s
  | .tokDataEncode b => Sys2Proof.Machine.execTokDataEncode b s
  | .tokDataDecode b => Sys2Proof.Machine.execTokDataDecode b s
  | .toggleHalf => Sys2Proof.Machine.execToggleHalf s
  | .reset => Sys2Proof.Machine.execReset s

end Sys2Proof.Machine
end

