-- ==== Sys2Proof/Machine/Fetch.lean ====
section
/-! DEFINITION. How a step gets its operation (the block's counterpart of fetching an instruction: it has no program
counter, R39), the wire from U6's press event to U5's toggle, and the placing of a table word on the ports. -/

namespace Sys2Proof.Machine

/-- The operation the next step takes and the state it takes it in: the stimulus the environment presents next, decoded.
With nothing presented, TXP, the one agent that steps by itself (R200), takes a turn under some lock grant or takes none;
neither that it steps nor that it gets the lock is built in (R211, 93 X10, X11). DESIGN CHOICE, log entries 1 and 4. -/
def selected (s : State) : Except Refusal (Option Instr × State) :=
  match s.presented with
  | none => .ok ((Config.unscheduledTurn s.freeIdx).map (txpTurn s.txState s.q.isEmpty), s.drawFree 1)
  | some (st, u) =>
    if st.select.external then
      match decode s.context st with
      | .ok i => .ok (some i, u)
      | .error e => .error (.badWires e)
    else .error .internalPoint

/-- Operation `i` pulses the `toggle` input of U5: it is a sample of TOGGLE_BUTTON that registers a press (R230). No
other operation emits a press event. -/
def pulsesToggle (i : Instr) (s : State) : Bool :=
  match i with
  | .dbSample id raw now => id == s.build.toggleButton && s.pressRegisters id raw now
  | _ => false

/-- The wire (R312 (e)): the sample and the TOGGLE_HALF it causes take effect in one step, the sample first. DESIGN
CHOICE, log entry 11. -/
def wireToggle (i : Instr) (s : State) (o : Host.Outcome State Fault Refusal) : Host.Outcome State Fault Refusal :=
  match o with
  | .next t => if pulsesToggle i s then execToggleHalf t else .next t
  | .fault f => .fault f
  | .refused r => .refused r

/-- What a step does with its selection: the operation with the toggle wire around it; with none, no agent steps and
nothing happens. DESIGN CHOICE, log entry 4. -/
def runSelected (o : Option Instr) (s : State) : Host.Outcome State Fault Refusal :=
  match o with
  | none => .next s
  | some i => wireToggle i s (exec i s)

/-- `s` with the operation of a table word presented next (log entry 5). A token word needs its first character waiting
and its second presented, and a data token needs Idle, the mode the table word is read in. -/
def placeTableWord (s : State) (nbits w : Nat) : State :=
  match tableStimulus nbits w with
  | none => s
  | some ⟨.token, [c1, c2]⟩ =>
    { s with
      pendValid := true
      pendChar := c1
      mode := if (tokenByte c1 c2).isSome then .idle else s.mode
      inputs := ⟨.ch, [c2]⟩ :: s.inputs }
  | some st => { s with inputs := st :: s.inputs }

end Sys2Proof.Machine
end

