-- ==== Sys2Proof/Machine/Edge.lean ====
section
/-! DEFINITION. Operations selected on the same clock edge (60_exceptions.md R312): each edge is the stated sequence of
single steps. DEDUCED, log entry 15; one point of it DESIGN CHOICE, log entry 23. -/

namespace Sys2Proof.Machine

/-- What is asserted on one edge of `clk` (R107, R312). The combinational ports of U1, U2 and `count[id]` write no
state and are left out. -/
structure Edge where
  /-- `rst`. -/
  rst     : Bool
  /-- `push_valid` with `push_payload`. -/
  push    : Option Payload
  /-- A turn of TXP, with `tx_gnt`. -/
  txp     : Option Bool
  /-- `ch_valid` with `ch`. -/
  ch      : Option CharCode
  /-- The buttons whose `prst[id]` is 1. -/
  prst    : List Nat
  /-- The buttons whose `smp_valid[id]` is 1, with `raw[id]`. -/
  samples : List (Nat × Bool)
  /-- The shared time of the samples. -/
  now     : Nat
  /-- The `toggle` input, where it is driven directly (R4). -/
  toggle  : Bool
  deriving DecidableEq, Repr

/-- Q_PUSH beside TXP's turn (R181): the order that gives what both give against the occupancy before the edge. On an
empty queue TXP polls first (no fall-through); otherwise the push is tried first (no reuse of the freed entry). -/
def queueOrder (qEmpty : Bool) (push txp : List Stimulus) : List Stimulus :=
  if qEmpty then txp ++ push else push ++ txp

/-- A sample of the edge registers a press of TOGGLE_BUTTON, so the edge pulses the `toggle` wire already (R312 (e)).
Nothing that the edge does before its samples changes whether one registers. -/
def Edge.pressesToggle (e : Edge) (s : State) : Bool := e.samples.any fun x => pulsesToggle (.dbSample x.1 x.2 e.now) s

/-- The sequence of single steps an edge is equivalent to (R312): RESET alone if it is asserted; otherwise the queue's
pair in the order of R181, the character before any toggle (R270), PRESS_RESET before the samples (R236). The spec has
one `toggle` wire and gives it no second driver beside U6: where a press and a direct pulse (R4) fall on one edge, the
wire is the OR of the two and `half` is inverted once. DESIGN CHOICE, log entry 23. -/
def edgeSequence (s : State) (e : Edge) : List Stimulus :=
  if e.rst then [⟨.rst, []⟩]
  else
    queueOrder s.q.isEmpty (e.push.toList.map fun p => ⟨.push, p.toList⟩)
      (e.txp.toList.map fun g => ⟨.txp, [byteOfBit g]⟩) ++
    (e.ch.toList.map fun c => ⟨.ch, [c]⟩) ++
    (e.prst.map fun id => ⟨.pressReset id, []⟩) ++
    (e.samples.map fun x => ⟨.sample x.1, sampleBytes x.2 e.now⟩) ++
    (if e.toggle && !e.pressesToggle s then [⟨.toggle, []⟩] else [])

/-- The edge: its sequence presented in front of what comes later, and taken to its last step. -/
def edge (s : State) (e : Edge) : Host.Outcome State Fault Refusal :=
  Host.Core.run ⟨State, Fault, Refusal, step, State.reset⟩ (edgeSequence s e).length
    (s.setInputs (edgeSequence s e ++ s.inputs))

end Sys2Proof.Machine
end

