-- ==== Sys2Proof/Machine/RegisterQueue.lean ====
section
/-! DEFINITION. The register-level form of U3 that 42_transmit_queue.md R182 gives for information: an array, two indexes
and a counter. It is no part of State (R43); the sequence `q` is the queue. DEDUCED, log entry 22. -/

namespace Sys2Proof.Machine

/-- The registers of R182. -/
structure RegisterQueue where
  mem : Vector Payload 10
  wp  : Fin 10
  rp  : Fin 10
  cnt : Nat
  deriving DecidableEq, Repr

/-- The index after `i`: ten is no power of two, so it wraps by comparison. -/
def nextIndex (i : Fin 10) : Fin 10 := if i = 9 then 0 else i + 1

/-- After reset, whatever `mem` holds. -/
def RegisterQueue.afterReset (mem : Vector Payload 10) : RegisterQueue := { mem := mem, wp := 0, rp := 0, cnt := 0 }

/-- A push: accepted below ten entries. -/
def RegisterQueue.push (f : RegisterQueue) (p : Payload) : Bool × RegisterQueue :=
  if f.cnt < 10 then (true, { f with mem := f.mem.set f.wp p, wp := nextIndex f.wp, cnt := f.cnt + 1 }) else (false, f)

/-- A pop: the entry at `rp`, or `none`. -/
def RegisterQueue.pop (f : RegisterQueue) : Option Payload × RegisterQueue :=
  if 0 < f.cnt then (some f.mem[f.rp], { f with rp := nextIndex f.rp, cnt := f.cnt - 1 }) else (none, f)

/-- `n` entries from index `i` on. -/
def entriesFrom (mem : Vector Payload 10) : Nat → Fin 10 → List Payload
  | 0, _ => []
  | n + 1, i => mem[i] :: entriesFrom mem n (nextIndex i)

/-- The abstraction: the sequence `q` the registers hold. -/
def RegisterQueue.payloads (f : RegisterQueue) : List Payload := entriesFrom f.mem f.cnt f.rp

/-- At most ten entries, and the write index as far past the read index as there are entries. -/
def RegisterQueue.Inv (f : RegisterQueue) : Prop := f.cnt ≤ 10 ∧ f.wp.val = (f.rp.val + f.cnt) % 10

end Sys2Proof.Machine
end

