-- ==== Sys2Proof/Machine/Flags.lean ====
section
/-! DEFINITION. The derived status and the output ports, functions of the state (10_state.md R24; 42 R178; 43 R207;
45 R265 to R267), and the numeric codes of the enumerations (30_encoding.md R94, R99, R109). -/

namespace Sys2Proof.Machine

/-- `count_q` (R178), 4 bits. -/
def State.countQ (s : State) : BitVec 4 := BitVec.ofNat 4 s.q.length
/-- `empty` (R178). -/
def State.empty (s : State) : Bool := s.q.length == 0
/-- `full` (R178). -/
def State.full (s : State) : Bool := s.q.length == Config.queueDepth
/-- `push_ready` = not `full` (R178). -/
def State.pushReady (s : State) : Bool := !s.full
/-- `tx_req` = 1 exactly in Transmit (R207). -/
def State.txReq (s : State) : Bool := s.txState == .transmit
/-- `tx_frame_o` (R207); meaningful on a TX_SEND step. -/
def State.txFrameO (s : State) : Frame := s.txFrame

/-- The class code (R94): bit 1 is S ≠ 0, bit 0 is P. -/
def classCode : ErrClass → BitVec 2
  | .noError => 0b00#2
  | .parityOnly => 0b01#2
  | .doubleUncorrectable => 0b10#2
  | .singleCorrected => 0b11#2
/-- The code of `tx_state` (R109). -/
def txStateCode : TxState → BitVec 1
  | .standby => 0#1
  | .transmit => 1#1
/-- The code of `mode` (R109). -/
def modeCode : Mode → BitVec 2
  | .idle => 0#2
  | .encode => 1#2
  | .decode => 2#2
/-- The code of `half` (R109). -/
def halfCode : Half → BitVec 1
  | .low => 0#1
  | .high => 1#1

/-- `mode_o` (R265). -/
def State.modeO (s : State) : BitVec 2 := modeCode s.mode
/-- `half_o` (R265). -/
def State.halfO (s : State) : BitVec 1 := halfCode s.half
/-- `disp_valid_o` (R266). -/
def State.dispValidO (s : State) : Bool := s.dispValid && (s.mode == .encode || s.mode == .decode)
/-- `disp_o` (R266): `none` where the spec leaves the display without defined content (93 X3). DEDUCED, log
entry 12. -/
def State.dispO (s : State) : Option Byte :=
  match s.mode, s.dispValid with
  | .encode, true =>
    match s.half with
    | .low => some s.codeLo
    | .high => some s.codeHi
  | .decode, true => some (s.decNib.setWidth 8)
  | _, _ => none
/-- The 16-bit coded value `{code_hi, code_lo}` (R69, R99). -/
def State.coded16 (s : State) : BitVec 16 := s.codeHi ++ s.codeLo
/-- `last_valid_o` (R265). -/
def State.lastValidO (s : State) : Bool := s.lastValid
/-- `last_class_o` (R265): `none` while `last_valid_o` is 0, where R255 calls the old class unobservable and 93 X2 any
value. DEDUCED, log entry 12. -/
def State.lastClassO (s : State) : Option (BitVec 2) := if s.lastValid then some (classCode s.lastClass) else none
/-- `ind_ok` (R267). -/
def State.indOk (s : State) : Bool :=
  s.lastValid && (s.lastClass == .noError || (s.lastClass == .parityOnly && s.build.indParityOnly == .ok))
/-- `ind_corr` (R267). -/
def State.indCorr (s : State) : Bool :=
  s.lastValid &&
    (s.lastClass == .singleCorrected || (s.lastClass == .parityOnly && s.build.indParityOnly == .corrected))
/-- `ind_unc` (R267). -/
def State.indUnc (s : State) : Bool := s.lastValid && s.lastClass == .doubleUncorrectable
/-- `pressed[id]` (R237). -/
def State.pressedO (s : State) (id : Nat) : Option Bool := s.buttons[id]?.map PressState.pressed
/-- `count[id]` (R237). -/
def State.countO (s : State) (id : Nat) : Option Nat := s.buttons[id]?.map PressState.count

/-- The payload port's value, byte i at bits 8i+7 to 8i (R67). -/
def payloadPort (p : Payload) : BitVec 128 := p.foldr (fun b acc => (acc <<< 8) ||| b.setWidth 128) 0#128
/-- The frame port's value, byte i at bits 8i+7 to 8i (R67). -/
def framePort (f : Frame) : BitVec 256 := f.foldr (fun b acc => (acc <<< 8) ||| b.setWidth 256) 0#256

end Sys2Proof.Machine
end

