-- ==== Sys2Proof/Safety.lean ====
section
/-! DEFINITION. The terms claims about runs use: the block's invariant, what the environment must respect, unbounded
runs and their fairness (R211), the frames still owed to the transmit port, and the two data paths. -/

namespace Sys2Proof.Machine

/-- The frames handed to the transmit capability so far, in order (R207). -/
def sentFrames : List Output → List Frame
  | [] => []
  | .transmit f :: os => f :: sentFrames os
  | _ :: os => sentFrames os

/-- The number of ones in a byte, the distance of two bytes being the ones of their exclusive or (R131). -/
def ones (v : Byte) : Nat := (List.range 8).countP fun k => v.getLsbD k

/-- The byte with exactly bit `k` set: flipping bit k of a byte is the exclusive or with it (R139). -/
def flip (k : Nat) : Byte := 1#8 <<< k

/-- How often an output was put out. -/
def timesEmitted (o : Output) (os : List Output) : Nat := os.count o

/-- The stored part of the canonical form of the queue (R23): at most ten payloads. -/
abbrev State.queueWf (s : State) : Prop := s.q.length ≤ Config.queueDepth

/-- The block's invariant: R183, R210 and R271, with one PressState for each button of the build (R37). -/
structure State.Inv (s : State) : Prop where
  queueWf : s.queueWf
  buttonForEach : s.buttons.length = s.build.nButtons
  /-- In Transmit the pending frame is the PKT_ENC of a payload (R210). -/
  pendingFrame : s.txState = .transmit → ∃ p, s.txFrame = packetEncode p
  /-- Every frame handed over so far was the PKT_ENC of a payload (R208). -/
  sentFrame : ∀ f ∈ sentFrames s.outputs, ∃ p, f = packetEncode p
  /-- As many status toggles as transmissions (R210). -/
  toggles : timesEmitted .statusToggle s.outputs = (sentFrames s.outputs).length
  /-- `last_valid` implies Decode (R271). -/
  lastInDecode : s.lastValid = true → s.mode = .decode
  /-- `disp_valid` implies Encode or Decode (R271). -/
  dispNotIdle : s.dispValid = true → s.mode = .encode ∨ s.mode = .decode
  /-- In Decode a valid display has a valid class (R262). -/
  dispHasClass : s.mode = .decode → s.dispValid = s.lastValid
  /-- What Encode displays is a pair of code words of one byte (R261, R271). -/
  shownCodes : s.mode = .encode → s.dispValid = true →
    ∃ b, s.codeLo = encNibble (lowNibble b) ∧ s.codeHi = encNibble (highNibble b)
  /-- `dec_nib` and `last_class` belong to one byte (R271). -/
  lastOfOneByte : s.lastValid = true → ∃ b, s.decNib = (decodeByte b).nibble ∧ s.lastClass = classify b

/-- The environment respects the block's ports in what it presents next: a port of the block, wires the port has, and
for a sample a time no earlier than the button's last (R232, 92_eei_decisions.md D32). -/
def State.EnvOk (s : State) : Prop :=
  ∀ st u, s.presented = some (st, u) →
    st.select.external = true ∧
    ∃ i, decode s.context st = .ok i ∧
      ∀ id raw now, i = .dbSample id raw now → ∀ b, s.buttons[id]? = some b → b.lastTime ≤ now

/-- An unbounded run: every state steps to the next one. -/
def IsRun (r : Nat → State) : Prop := ∀ n, step (r n) = .next (r (n + 1))

/-- The step of `s` is a turn of TXP (R200). -/
def State.txpTurns (s : State) : Prop := ∃ g u, selected s = .ok (some (txpTurn s.txState s.q.isEmpty g), u)

/-- R211 (a), a hypothesis of liveness claims: TXP takes infinitely many steps. -/
def TxpIsFair (r : Nat → State) : Prop := ∀ n, ∃ m, n ≤ m ∧ (r m).txpTurns

/-- R211 (b), a hypothesis of liveness claims: whenever `tx_req` = 1, TXP takes a turn with the lock granted then or
later, which is TX_SEND. DEDUCED, log entry 21. -/
def LockIsFair (r : Nat → State) : Prop :=
  ∀ n, (r n).txReq = true → ∃ m u, n ≤ m ∧ selected (r m) = .ok (some .txSend, u)

/-- Every frame of the payloads accepted since the last RESET, in order: those handed over since the output list was
`sent` long, then the one pending in U4, then those still queued (R208). -/
def State.frameStream (s : State) : List Frame :=
  sentFrames s.outputs ++ (if s.txState = .transmit then [s.txFrame] else []) ++ s.q.map packetEncode

/-- The state of path A, U3 and U4 (00_scope.md R3); `tx_frame` counts only in Transmit (R27). -/
def State.pathA (s : State) : List Payload × TxState × Option Frame :=
  (s.q, s.txState, if s.txState = .transmit then some s.txFrame else none)

/-- The state of path B, U5 and U6 (00_scope.md R3). -/
def State.pathB (s : State) :
    (Mode × Bool × CharCode × Half) × (CodedByte × CodedByte × Nibble) × (Bool × Bool × ErrClass) ×
    List PressState :=
  ((s.mode, s.pendValid, s.pendChar, s.half), (s.codeLo, s.codeHi, s.decNib),
   (s.dispValid, s.lastValid, s.lastClass), s.buttons)

end Sys2Proof.Machine
end

