-- ==== Sys2Proof/Certificates/Slice0/Obligations.lean ====
section
/-! DEFINITION. The statements about the block, for the provers, in the order of OBLIGATIONS.json. A statement whose
conclusion is `exec i s = .next t` gives the whole next state, so it is the frame of `i` too: what `t` does not name is
as in `s`. -/

open Sys2Proof Sys2Proof.Machine

/-! ## U1 HammingCodec -/

/-- R130: the field equations of ENC, its corner cases, and that it writes no state. The clause `w[0]` = d0^d1^d2 is the
spec's own inference, marked derived in R130. -/
def Obligations.EncComputesCodeWord : Prop :=
  ∀ (v : Nibble) (s : State), ∃ w : CodedByte,
    exec (.enc v) s = .next (s.emit (.encCode w)) ∧
    w[4] = v[0] ∧ w[5] = v[1] ∧ w[6] = v[2] ∧ w[7] = v[3] ∧
    w[1] = (v[1] ^^ v[2] ^^ v[3]) ∧ w[2] = (v[0] ^^ v[2] ^^ v[3]) ∧ w[3] = (v[0] ^^ v[1] ^^ v[3]) ∧
    w[0] = (w[1] ^^ w[2] ^^ w[3] ^^ w[4] ^^ w[5] ^^ w[6] ^^ w[7]) ∧ w[0] = (v[0] ^^ v[1] ^^ v[2]) ∧
    (v = 0#4 → w = 0x00#8) ∧ (v = 15#4 → w = 0xFF#8) ∧ (v = 1#4 → w = 0x1D#8) ∧ ones w % 2 = 0

/-- What R131 derives from R130: the table of the 16 code words, what ENC puts out; systematic, weight 4 (but 0x00 and
0xFF), distance 4. -/
def Obligations.CodeWordsHaveDistanceFour : Prop :=
  ∃ table : Vector CodedByte 16,
    table = #v[0x00#8, 0x1D#8, 0x2B#8, 0x36#8, 0x47#8, 0x5A#8, 0x6C#8, 0x71#8,
               0x8E#8, 0x93#8, 0xA5#8, 0xB8#8, 0xC9#8, 0xD4#8, 0xE2#8, 0xFF#8] ∧
    (∀ (v : Nibble) (s : State), exec (.enc v) s = .next (s.emit (.encCode table[v.toFin]))) ∧
    (∀ v : Nibble, (table[v.toFin]).extractLsb' 4 4 = v) ∧
    (∀ v : Nibble, table[v.toFin] ≠ 0x00#8 → table[v.toFin] ≠ 0xFF#8 → ones table[v.toFin] = 4) ∧
    (∀ v v' : Nibble, v ≠ v' → 4 ≤ ones (table[v.toFin] ^^^ table[v'.toFin])) ∧
    (∃ v v' : Nibble, v ≠ v' ∧ ones (table[v.toFin] ^^^ table[v'.toFin]) = 4)

/-- R132: the syndrome equations on the received byte; bit 0 does not enter; a code word has syndrome 0; a flipped bit
k changes S by the column of R134 for k; the mask form, which is the spec's own inference, marked derived in R132. -/
def Obligations.SynComputesSyndrome : Prop :=
  ∃ S : CodedByte → Syndrome,
    (∀ (c : CodedByte) (s : State), exec (.syn c) s = .next (s.emit (.decSyn (S c)))) ∧
    (∀ c : CodedByte,
      (S c)[0] = (c.getLsbD 5 ^^ c.getLsbD 6 ^^ c.getLsbD 7 ^^ c.getLsbD 1) ∧
      (S c)[1] = (c.getLsbD 4 ^^ c.getLsbD 6 ^^ c.getLsbD 7 ^^ c.getLsbD 2) ∧
      (S c)[2] = (c.getLsbD 4 ^^ c.getLsbD 5 ^^ c.getLsbD 7 ^^ c.getLsbD 3) ∧
      S (c ^^^ 0x01#8) = S c ∧
      S (c ^^^ flip 1) = S c ^^^ 1#3 ∧ S (c ^^^ flip 2) = S c ^^^ 2#3 ∧ S (c ^^^ flip 3) = S c ^^^ 4#3 ∧
      S (c ^^^ flip 4) = S c ^^^ 6#3 ∧ S (c ^^^ flip 5) = S c ^^^ 5#3 ∧ S (c ^^^ flip 6) = S c ^^^ 3#3 ∧
      S (c ^^^ flip 7) = S c ^^^ 7#3 ∧
      (S c)[0] = decide (ones (c &&& 0xE2#8) % 2 = 1) ∧
      (S c)[1] = decide (ones (c &&& 0xD4#8) % 2 = 1) ∧
      (S c)[2] = decide (ones (c &&& 0xB8#8) % 2 = 1)) ∧
    (∀ (v : Nibble) (w : CodedByte) (s : State), exec (.enc v) s = .next (s.emit (.encCode w)) → S w = 0#3) ∧
    S 0x0D#8 = 6#3

/-- R133: parity error is the exclusive or of bits 1 to 7 against bit 0, an odd number of ones; one flip inverts it,
two leave it. -/
def Obligations.ParIsOddNumberOfOnes : Prop :=
  ∃ P : CodedByte → Bool,
    (∀ (c : CodedByte) (s : State), exec (.par c) s = .next (s.emit (.decPerr (P c)))) ∧
    (∀ c : CodedByte,
      P c = ((c.getLsbD 1 ^^ c.getLsbD 2 ^^ c.getLsbD 3 ^^ c.getLsbD 4 ^^ c.getLsbD 5 ^^ c.getLsbD 6 ^^
              c.getLsbD 7) != c.getLsbD 0) ∧
      P c = decide (ones c % 2 = 1) ∧
      (∀ k, k < 8 → P (c ^^^ flip k) = !P c) ∧
      (∀ j k, j < 8 → k < 8 → j ≠ k → P (c ^^^ flip j ^^^ flip k) = P c)) ∧
    (∀ (v : Nibble) (w : CodedByte) (s : State), exec (.enc v) s = .next (s.emit (.encCode w)) → P w = false) ∧
    P 0x1C#8 = true

/-- R134 and R135: DEC flips the bit the table of R134 names for a non-zero syndrome and takes the nibble of the flipped
byte, with the corner cases (a) to (e) and the example. The clause on `errpos` rests on the spec's own addition of that
output, its decision D5. -/
def Obligations.DecFlipsTheNamedBit : Prop :=
  ∀ (c : CodedByte) (s : State), ∃ (S : Syndrome) (r : DecResult) (k : Nat),
    exec (.syn c) s = .next (s.emit (.decSyn S)) ∧
    exec (.dec c) s = .next (s.emit (.decResult r)) ∧
    k = (match S[0], S[1], S[2] with
      | false, false, false => 0
      | true, false, false => 1
      | false, true, false => 2
      | false, false, true => 3
      | false, true, true => 4
      | true, false, true => 5
      | true, true, false => 6
      | true, true, true => 7) ∧
    r.errpos.toNat = k ∧
    (S = 0#3 → r.nibble = c.extractLsb' 4 4 ∧ r.corrected = false) ∧
    (S ≠ 0#3 → r.nibble = (c ^^^ flip k).extractLsb' 4 4 ∧ r.corrected = true ∧ 1 ≤ k ∧ k ≤ 7 ∧
      (c ^^^ flip k).getLsbD 0 = c.getLsbD 0) ∧
    (k ≤ 3 → r.nibble = c.extractLsb' 4 4) ∧
    (4 ≤ k → r.nibble = c.extractLsb' 4 4 ^^^ (1#4 <<< (k - 4))) ∧
    (∀ (v : Nibble) (w : CodedByte) (j : Nat), exec (.enc v) s = .next (s.emit (.encCode w)) → 1 ≤ j → j ≤ 7 →
      c = w ^^^ flip j → k = j ∧ c ^^^ flip k = w) ∧
    (c = 0x0D#8 → r.nibble = 1#4 ∧ r.corrected = true)

/-- R136: the four cases of (S, P). With at most two bits corrupted the nibble of DEC is the one sent in every class
but DOUBLE_UNCORRECTABLE; in that class a code word two bits away carries another nibble. -/
def Obligations.ClsIsTheFourCases : Prop :=
  ∀ (c : CodedByte) (s : State), ∃ (S : Syndrome) (P : Bool) (k : ErrClass) (r : DecResult),
    exec (.dec c) s = .next (s.emit (.decResult r)) ∧
    exec (.syn c) s = .next (s.emit (.decSyn S)) ∧
    exec (.par c) s = .next (s.emit (.decPerr P)) ∧
    exec (.cls c) s = .next (s.emit (.decClass k)) ∧
    (S = 0#3 → P = false → k = .noError) ∧
    (S = 0#3 → P = true → k = .parityOnly) ∧
    (S ≠ 0#3 → P = false → k = .doubleUncorrectable) ∧
    (S ≠ 0#3 → P = true → k = .singleCorrected) ∧
    (∀ (v : Nibble) (w : CodedByte), exec (.enc v) s = .next (s.emit (.encCode w)) → ones (c ^^^ w) ≤ 2 →
      k ≠ .doubleUncorrectable → r.nibble = v) ∧
    (k = .doubleUncorrectable → ∃ (v : Nibble) (w : CodedByte),
      exec (.enc v) s = .next (s.emit (.encCode w)) ∧ ones (c ^^^ w) = 2 ∧ r.nibble ≠ v) ∧
    (c = 0x1C#8 → S = 0#3 ∧ P = true ∧ k = .parityOnly) ∧ (c = 0x0D#8 → S = 6#3 ∧ P = true ∧ k = .singleCorrected)

/-- What R139 derives from R130 to R136: round trip, single-bit correction, parity-only corruption and double-bit
detection for every code word, each DOUBLE_UNCORRECTABLE byte two bits away from four code words, and the partition of
the 256 bytes. -/
def Obligations.CodeCorrectsOneDetectsTwo : Prop :=
  (∀ (v : Nibble) (s : State), ∃ w : CodedByte,
    exec (.enc v) s = .next (s.emit (.encCode w)) ∧
    (exec (.dec w) s = .next (s.emit (.decResult ⟨v, false, 0#3⟩)) ∧
      exec (.syn w) s = .next (s.emit (.decSyn 0#3)) ∧
      exec (.par w) s = .next (s.emit (.decPerr false)) ∧
      exec (.cls w) s = .next (s.emit (.decClass .noError))) ∧
    (∀ k, 1 ≤ k → k ≤ 7 →
      exec (.dec (w ^^^ flip k)) s = .next (s.emit (.decResult ⟨v, true, BitVec.ofNat 3 k⟩)) ∧
      exec (.par (w ^^^ flip k)) s = .next (s.emit (.decPerr true)) ∧
      exec (.cls (w ^^^ flip k)) s = .next (s.emit (.decClass .singleCorrected))) ∧
    (exec (.dec (w ^^^ flip 0)) s = .next (s.emit (.decResult ⟨v, false, 0#3⟩)) ∧
      exec (.syn (w ^^^ flip 0)) s = .next (s.emit (.decSyn 0#3)) ∧
      exec (.par (w ^^^ flip 0)) s = .next (s.emit (.decPerr true)) ∧
      exec (.cls (w ^^^ flip 0)) s = .next (s.emit (.decClass .parityOnly))) ∧
    (∀ j k, j < k → k ≤ 7 →
      (∃ S : Syndrome, S ≠ 0#3 ∧ exec (.syn (w ^^^ flip j ^^^ flip k)) s = .next (s.emit (.decSyn S))) ∧
      exec (.par (w ^^^ flip j ^^^ flip k)) s = .next (s.emit (.decPerr false)) ∧
      exec (.cls (w ^^^ flip j ^^^ flip k)) s = .next (s.emit (.decClass .doubleUncorrectable)))) ∧
  (∀ s : State, ∃ (E : Nibble → CodedByte) (K : CodedByte → ErrClass),
    (∀ v, exec (.enc v) s = .next (s.emit (.encCode (E v)))) ∧
    (∀ c, exec (.cls c) s = .next (s.emit (.decClass (K c)))) ∧
    (∀ c, K c = .doubleUncorrectable →
      ((List.range 16).countP fun n => ones (c ^^^ E (BitVec.ofNat 4 n)) = 2) = 4) ∧
    ((List.range 256).countP fun n => K (BitVec.ofNat 8 n) = .noError) = 16 ∧
    ((List.range 256).countP fun n => K (BitVec.ofNat 8 n) = .parityOnly) = 16 ∧
    ((List.range 256).countP fun n => K (BitVec.ofNat 8 n) = .singleCorrected) = 112 ∧
    ((List.range 256).countP fun n => K (BitVec.ofNat 8 n) = .doubleUncorrectable) = 112)

/-- What R141 derives from R130, R132 and R133: the code is linear, so syndrome, parity error, class and error
position of a received word depend on the error pattern alone. -/
def Obligations.CodecIsLinear : Prop :=
  ∃ (E : Nibble → CodedByte) (S : CodedByte → Syndrome) (P : CodedByte → Bool) (K : CodedByte → ErrClass)
    (D : CodedByte → DecResult),
    (∀ (v : Nibble) (s : State), exec (.enc v) s = .next (s.emit (.encCode (E v)))) ∧
    (∀ (c : CodedByte) (s : State),
      exec (.syn c) s = .next (s.emit (.decSyn (S c))) ∧ exec (.par c) s = .next (s.emit (.decPerr (P c))) ∧
      exec (.cls c) s = .next (s.emit (.decClass (K c))) ∧ exec (.dec c) s = .next (s.emit (.decResult (D c)))) ∧
    E 1#4 = 0x1D#8 ∧ E 2#4 = 0x2B#8 ∧ E 4#4 = 0x47#8 ∧ E 8#4 = 0x8E#8 ∧
    (∀ a b : Nibble, E (a ^^^ b) = E a ^^^ E b) ∧
    (∀ a b : CodedByte, S (a ^^^ b) = S a ^^^ S b ∧ P (a ^^^ b) = (P a ^^ P b)) ∧
    (∀ c : CodedByte,
      (S c)[0] = decide (ones (c &&& 0xE2#8) % 2 = 1) ∧ (S c)[1] = decide (ones (c &&& 0xD4#8) % 2 = 1) ∧
      (S c)[2] = decide (ones (c &&& 0xB8#8) % 2 = 1) ∧ P c = decide (ones (c &&& 0xFF#8) % 2 = 1)) ∧
    (∀ (v : Nibble) (e : CodedByte),
      S (E v ^^^ e) = S e ∧ P (E v ^^^ e) = P e ∧ K (E v ^^^ e) = K e ∧ (D (E v ^^^ e)).errpos = (D e).errpos) ∧
    (∀ k, 1 ≤ k → k ≤ 7 → (D (flip k)).errpos.toNat = k)

/-- What R140 derives from R131, R135 and R136: three flipped bits are outside the guarantee: the byte is taken for a
code word of another nibble with one flip or a flipped parity bit. -/
def Obligations.ThreeErrorsPassForOne : Prop :=
  ∀ (v : Nibble) (s : State) (i j k : Nat), i < j → j < k → k < 8 →
    ∃ (w : CodedByte) (r : DecResult) (c : ErrClass),
      exec (.enc v) s = .next (s.emit (.encCode w)) ∧
      exec (.dec (w ^^^ flip i ^^^ flip j ^^^ flip k)) s = .next (s.emit (.decResult r)) ∧
      exec (.cls (w ^^^ flip i ^^^ flip j ^^^ flip k)) s = .next (s.emit (.decClass c)) ∧
      r.nibble ≠ v ∧ (c = .singleCorrected ∨ c = .parityOnly)

/-! ## U2 PacketCodec -/

/-- R160: each payload byte gives the ENC of its low nibble, then the ENC of its high nibble; no state is written. -/
def Obligations.PktEncEncodesEveryNibble : Prop :=
  ∃ F : Payload → Frame,
    (∀ (p : Payload) (s : State),
      exec (.pktEnc p) s = .next (s.emit (.peFrame (F p))) ∧
      ∀ i : Fin 16,
        exec (.enc (p[i].extractLsb' 0 4)) s = .next (s.emit (.encCode (F p)[2 * i.val])) ∧
        exec (.enc (p[i].extractLsb' 4 4)) s = .next (s.emit (.encCode (F p)[2 * i.val + 1]))) ∧
    (∀ p p' : Payload, F p = F p' → p = p') ∧
    F (Vector.replicate 16 0x00#8) = Vector.replicate 32 0x00#8 ∧
    F (Vector.replicate 16 0xFF#8) = Vector.replicate 32 0xFF#8

/-- R161: each pair of frame bytes gives `{hi, lo}` of the two DEC nibbles, the low one first, whatever their class.
-/
def Obligations.PktDecDecodesEveryPair : Prop :=
  ∀ (f : Frame) (s : State), ∃ p : Payload,
    exec (.pktDec f) s = .next (s.emit (.pdPayload p)) ∧
    ∀ i : Fin 16, ∃ lo hi : DecResult,
      exec (.dec f[2 * i.val]) s = .next (s.emit (.decResult lo)) ∧
      exec (.dec f[2 * i.val + 1]) s = .next (s.emit (.decResult hi)) ∧
      p[i] = hi.nibble ++ lo.nibble

/-- R162, its last sentence derived by the spec from R139: PKT_DEC gives the payload back from its frame, and from any
frame that differs from it in at most one bit of each byte. -/
def Obligations.FrameSurvivesOneErrorPerByte : Prop :=
  ∀ (p : Payload) (s : State), ∃ f : Frame,
    exec (.pktEnc p) s = .next (s.emit (.peFrame f)) ∧
    exec (.pktDec f) s = .next (s.emit (.pdPayload p)) ∧
    ∀ f' : Frame, (∀ k : Fin 32, ones (f'[k] ^^^ f[k]) ≤ 1) →
      exec (.pktDec f') s = .next (s.emit (.pdPayload p))

/-! ## U3 TransmitQueue -/

/-- R176: a push appends while fewer than ten payloads are queued and is refused, changing nothing, otherwise. That a
full queue is left as it is is the spec's decision D10. -/
def Obligations.PushAppendsOrIsRefused : Prop :=
  ∀ (p : Payload) (s : State),
    (s.q.length < 10 →
      exec (.qPush p) s = .next { s with q := s.q ++ [p], outputs := s.outputs ++ [.accepted true] }) ∧
    (10 ≤ s.q.length → exec (.qPush p) s = .next { s with outputs := s.outputs ++ [.accepted false] })

/-- R177: a pop takes the oldest payload; from an empty queue it returns "none" and changes nothing, by the spec's
decision D11. No port selects it, said of the model's stimuli and of its ports, `Select.external` (log entry 6). -/
def Obligations.PopTakesTheOldest : Prop :=
  (∀ (c : Context) (st : Stimulus), st.select.external = true → decode c st ≠ .ok .qPop) ∧
  ∀ s : State,
    (s.q = [] → exec .qPop s = .next { s with outputs := s.outputs ++ [.popped none] }) ∧
    (∀ p rest, s.q = p :: rest →
      exec .qPop s = .next { s with q := rest, outputs := s.outputs ++ [.popped (some p)] })

/-- R178, R24 (the spec's decision D9): the status outputs of a queue of at most ten payloads, and what `push_ready`
means for a push. -/
def Obligations.StatusOutputsFollowTheQueue : Prop :=
  ∀ s : State, s.q.length ≤ 10 →
    s.countQ.toNat = s.q.length ∧ (s.empty = true ↔ s.q.length = 0) ∧ (s.full = true ↔ s.q.length = 10) ∧
    s.pushReady = !s.full ∧
    ∀ p : Payload, ∃ t, exec (.qPush p) s = .next t ∧ t.outputs = s.outputs ++ [.accepted s.pushReady]

/-- What R208 derives from R202, R203 and R183: frames leave in the order their payloads were accepted. Every step but
a RESET leaves the frames handed over, pending and queued, in that order, as they were, and appends the frame of the
payload a push got accepted. -/
def Obligations.FramesLeaveInOrderOfAcceptance : Prop :=
  ∀ (s t u : State) (o : Option Instr), selected s = .ok (o, u) → o ≠ some .reset → step s = .next t →
    (∀ p, o = some (.qPush p) → s.q.length < 10 →
      ∃ f, exec (.pktEnc p) s = .next (s.emit (.peFrame f)) ∧ t.frameStream = s.frameStream ++ [f]) ∧
    ((∀ p, o ≠ some (.qPush p)) ∨ 10 ≤ s.q.length → t.frameStream = s.frameStream)

/-- R182, informative, on the structure of 93 G3 (log entry 22): the registers refine the sequence. From registers that
hold the queue of a state, a push and a pop answer as Q_PUSH and Q_POP do and leave registers that hold the new queue. -/
def Obligations.RegistersRefineTheSequence : Prop :=
  (∀ mem, (RegisterQueue.afterReset mem).Inv ∧ (RegisterQueue.afterReset mem).payloads = State.reset.q) ∧
  ∀ (f : RegisterQueue) (s : State), f.Inv → f.payloads = s.q →
    (∀ p : Payload, ∃ t, exec (.qPush p) s = .next t ∧ (f.push p).2.Inv ∧ (f.push p).2.payloads = t.q ∧
      t.outputs = s.outputs ++ [.accepted (f.push p).1]) ∧
    (∃ t, exec .qPop s = .next t ∧ f.pop.2.Inv ∧ f.pop.2.payloads = t.q ∧
      t.outputs = s.outputs ++ [.popped f.pop.1]) ∧
    f.cnt = s.countQ.toNat

/-! ## U4 TransmitPipeline -/

/-- R201 to R204: the operations of U4, each with its enabling condition. One step for a fetch is the spec's decision D16;
the atomic send and the hold are its decision D17. After TX_SEND `tx_frame` holds some frame, nothing is said which (log
entry 13). Where the condition does not hold there is no step, said through the model's refusal `notEnabled` (log entry
7, DEDUCED). -/
def Obligations.PipelineTransitionTable : Prop :=
  ∀ s : State,
    (s.txState = .standby → s.txReq = false) ∧ (s.txState = .transmit → s.txReq = true) ∧
    (s.txState ≠ .standby ∨ s.q ≠ [] → exec .txPoll s = .refused (.notEnabled "TX_POLL")) ∧
    (s.txState ≠ .standby ∨ s.q = [] → exec .txFetch s = .refused (.notEnabled "TX_FETCH")) ∧
    (s.txState ≠ .transmit →
      exec .txSend s = .refused (.notEnabled "TX_SEND") ∧ exec .txHold s = .refused (.notEnabled "TX_HOLD")) ∧
    (s.txState = .standby → s.q = [] → exec .txPoll s = .next s) ∧
    (∀ p rest, s.txState = .standby → s.q = p :: rest →
      ∃ f, exec (.pktEnc p) s = .next (s.emit (.peFrame f)) ∧
        exec .txFetch s = .next { s with q := rest, txFrame := f, txState := .transmit }) ∧
    (s.txState = .transmit →
      ∃ f n, exec .txSend s =
        .next { s with txState := .standby, txFrame := f, freeIdx := n,
                       outputs := s.outputs ++ [.transmit s.txFrame, .statusToggle] }) ∧
    (s.txState = .transmit → exec .txHold s = .next s)

/-- R200: U4 starts in Standby; in every state and for every lock grant exactly one of its four operations is enabled,
a turn of TXP selects it, and it completes; TX_POLL and TX_HOLD change nothing. "Enabled" is said through the model's
refusal `notEnabled` (log entry 7, DEDUCED), and the turn is the model's stimulus (log entry 6). -/
def Obligations.TxpAlwaysHasExactlyOneStep : Prop :=
  State.reset.txState = .standby ∧
  ∀ s : State,
    (exec .txPoll s ≠ .refused (.notEnabled "TX_POLL") ↔ s.txState = .standby ∧ s.q = []) ∧
    (exec .txFetch s ≠ .refused (.notEnabled "TX_FETCH") ↔ s.txState = .standby ∧ s.q ≠ []) ∧
    (exec .txSend s ≠ .refused (.notEnabled "TX_SEND") ↔ s.txState = .transmit) ∧
    (exec .txHold s ≠ .refused (.notEnabled "TX_HOLD") ↔ s.txState = .transmit) ∧
    ∀ g : Bool, ∃ i t, decode s.context ⟨.txp, [if g then 1#8 else 0#8]⟩ = .ok i ∧ exec i s = .next t ∧
      (s.txState = .standby → i = if s.q = [] then .txPoll else .txFetch) ∧
      (s.txState = .transmit → i = if g then .txSend else .txHold) ∧
      (i = .txPoll ∨ i = .txHold → t = s)

/-- R76 and R207 (the spec's decisions D17 to D19), with the model's unscheduled turn of TXP (log entry 4): a
frame is handed over only by TX_SEND, in Transmit and with the lock granted, exactly the pending frame, and together
with one status toggle. -/
def Obligations.TransmitOnlyUnderTheLock : Prop :=
  ∀ (s t u : State) (o : Option Instr), selected s = .ok (o, u) → step s = .next t →
    (o = some .txSend → s.txState = .transmit ∧ t.txState = .standby ∧
      t.outputs = s.outputs ++ [.transmit s.txFrame, .statusToggle] ∧
      (s.presented = some (⟨.txp, [1#8]⟩, u) ∨ (s.presented = none ∧ Config.unscheduledTurn s.freeIdx = some true))) ∧
    (o ≠ some .txSend → sentFrames t.outputs = sentFrames s.outputs ∧
      timesEmitted .statusToggle t.outputs = timesEmitted .statusToggle s.outputs)

/-- R211: neither fairness is built into the step. Where the environment withholds the lock for ever while a producer
pushes, U4 stays in Transmit in an unbounded run, nothing is handed over, and the queue fills; and where it presents
toggles alone, TXP never takes a turn and the queue and U4 stay as they are. What is presented over and over is the
model's `cycle` (log entries 1 and 21). -/
def Obligations.NoFairnessIsBuiltIn : Prop :=
  (∀ (s : State) (p : Payload), s.txState = .transmit → s.inputs = [] →
    s.cycle = [⟨.push, p.toList⟩, ⟨.txp, [0#8]⟩] →
    ∃ r, r 0 = s ∧ IsRun r ∧ 10 ≤ (r 20).q.length ∧
      ∀ n, (r n).txState = .transmit ∧ (r n).txFrame = s.txFrame ∧
        sentFrames (r n).outputs = sentFrames s.outputs ∧ s.q <+: (r n).q) ∧
  (∀ s : State, s.inputs = [] → s.cycle = [⟨.toggle, []⟩] →
    ∃ r, r 0 = s ∧ IsRun r ∧
      ∀ n, ¬ (r n).txpTurns ∧ (r n).q = s.q ∧ (r n).txState = s.txState ∧ (r n).outputs = s.outputs)

/-- R211 (the spec's decisions D14 and D40): under (a) and (b) every accepted payload is eventually transmitted. In an
unbounded run without RESET in which TXP is fair and the lock is granted fairly, every frame owed at some time, pending or
queued, has been handed over at a later time, in order. The run is one of the model's step (log entries 1 and 4). -/
def Obligations.FairRunsTransmitEverything : Prop :=
  ∀ r : Nat → State, IsRun r → (∀ n u, selected (r n) ≠ .ok (some .reset, u)) → TxpIsFair r → LockIsFair r →
    ∀ n, ∃ m, n ≤ m ∧ (r n).frameStream <+: sentFrames (r m).outputs

/-! ## U6 DebouncedInput -/

/-- R227: the branches of DB_SAMPLE, for a sample that is not earlier than the last one (R232). -/
def Obligations.SampleFollowsTheDecisionTable : Prop :=
  ∀ (s : State) (id : Nat) (raw asserted : Bool) (now : Nat) (b : PressState),
    s.buttons[id]? = some b → s.build.assertedLevel[id]? = some asserted → b.lastTime ≤ now →
    (now - b.lastTime > s.build.debounceWindow → b.pressed = false → raw = asserted →
      exec (.dbSample id raw now) s =
        .next { s with buttons := s.buttons.set id ⟨now, true, b.count + 1⟩,
                       outputs := s.outputs ++ [.pressEvent id] }) ∧
    (raw ≠ asserted →
      exec (.dbSample id raw now) s = .next { s with buttons := s.buttons.set id ⟨now, false, b.count⟩ }) ∧
    (raw = asserted → (now - b.lastTime ≤ s.build.debounceWindow ∨ b.pressed = true) →
      exec (.dbSample id raw now) s = .next { s with buttons := s.buttons.set id ⟨now, b.pressed, b.count⟩ })

/-- R232 (the spec's decision D32, 93 X6; log entry 8): a sample earlier than the button's last one has no step. -/
def Obligations.EarlierSampleIsRefused : Prop :=
  ∀ (s : State) (id : Nat) (raw : Bool) (now : Nat) (b : PressState),
    s.buttons[id]? = some b → now < b.lastTime →
    exec (.dbSample id raw now) s = .refused (.timeBackwards id)

/-- R228 and the effect R229 gives PRESS_RESET: reading the counter changes nothing; zeroing it changes nothing else. The
rest of R229 is `OnlyResetsLowerACounter`. -/
def Obligations.CounterIsReadAndZeroed : Prop :=
  ∀ (s : State) (id : Nat) (b : PressState), s.buttons[id]? = some b →
    exec (.pressCount id) s = .next { s with outputs := s.outputs ++ [.countValue id b.count] } ∧
    exec (.pressReset id) s = .next { s with buttons := s.buttons.set id { b with count := 0 } }

/-- What R234 derives from R227: five asserted samples, each within the window of the one before it, count exactly
once when the first finds the button released and a quiet time longer than the window. -/
def Obligations.FivePressedSamplesCountOnce : Prop :=
  ∀ (s : State) (id : Nat) (a : Bool) (b : PressState) (t1 t2 t3 t4 t5 : Nat),
    s.buttons[id]? = some b → s.build.assertedLevel[id]? = some a →
    b.pressed = false → b.lastTime ≤ t1 → t1 - b.lastTime > s.build.debounceWindow →
    t1 ≤ t2 → t2 ≤ t3 → t3 ≤ t4 → t4 ≤ t5 → t5 - t1 ≤ s.build.debounceWindow →
    ∃ s1 s2 s3 s4 s5,
      exec (.dbSample id a t1) s = .next s1 ∧ exec (.dbSample id a t2) s1 = .next s2 ∧
      exec (.dbSample id a t3) s2 = .next s3 ∧ exec (.dbSample id a t4) s3 = .next s4 ∧
      exec (.dbSample id a t5) s4 = .next s5 ∧
      s5.buttons[id]? = some ⟨t5, true, b.count + 1⟩ ∧ s5.outputs = s.outputs ++ [.pressEvent id]

/-- R225: an operation on one button writes nothing of the state but that button's PressState, and what it writes there
and puts out depends on that PressState and the parameters of the button only. -/
def Obligations.ButtonsDoNotInteract : Prop :=
  ∀ (s t : State) (id : Nat) (i : Instr),
    (i = .pressCount id ∨ i = .pressReset id ∨ ∃ raw now, i = .dbSample id raw now) →
    exec i s = .next t →
    (∀ other, other ≠ id → t.buttons[other]? = s.buttons[other]?) ∧
    ∃ (b : PressState) (os : List Output),
    t = { s with buttons := s.buttons.set id b, outputs := s.outputs ++ os } ∧
    ∀ s' : State, s'.buttons[id]? = s.buttons[id]? →
      s'.build.assertedLevel[id]? = s.build.assertedLevel[id]? →
      s'.build.debounceWindow = s.build.debounceWindow →
      exec i s' = .next { s' with buttons := s'.buttons.set id b, outputs := s'.outputs ++ os }

/-- R229 and R227: PRESS_RESET zeroes the counter and changes nothing else; a button still held is not counted again;
nothing but PRESS_RESET of that button and RESET lowers its counter, and only a sample of that button raises it, by one
(R227). That a sample never lowers it rests on the model's unbounded counter (the spec's decision D35; log entry 9,
DESIGN CHOICE): a counter of fixed width at its maximum is another machine. -/
def Obligations.OnlyResetsLowerACounter : Prop :=
  ∀ (s : State) (id : Nat) (b : PressState), s.buttons[id]? = some b →
    exec (.pressReset id) s = .next { s with buttons := s.buttons.set id ⟨b.lastTime, b.pressed, 0⟩ } ∧
    (∀ raw now t, b.pressed = true → exec (.dbSample id raw now) s = .next t →
      ∃ b', t.buttons[id]? = some b' ∧ b'.count = b.count) ∧
    ∀ (i : Instr) (t : State), exec i s = .next t → i ≠ .pressReset id → i ≠ .reset →
      ∃ b', t.buttons[id]? = some b' ∧ b.count ≤ b'.count ∧
        (b'.count ≠ b.count → b'.count = b.count + 1 ∧ ∃ raw now, i = .dbSample id raw now)

/-- R230 and R312 (e) (the spec's decisions D36 and D1; one step is the model's choice, log entry 11): a sample that
registers a press of TOGGLE_BUTTON toggles the displayed half in the same step; no other sample touches it. -/
def Obligations.PressOfToggleButtonTogglesHalf : Prop :=
  ∀ (s : State) (rest : List Stimulus) (id : Nat) (raw : Bool) (now : Nat) (b : PressState),
    s.inputs = ⟨.sample id, sampleBytes raw now⟩ :: rest → id < s.build.nButtons →
    s.buttons[id]? = some b → b.lastTime ≤ now →
    ∃ t, step s = .next t ∧ t.inputs = rest ∧
      (s.pressRegisters id raw now = true →
        t.outputs = s.outputs ++ [.pressEvent id] ∧
        (id = s.build.toggleButton → t.half ≠ s.half) ∧ (id ≠ s.build.toggleButton → t.half = s.half)) ∧
      (s.pressRegisters id raw now = false → t.outputs = s.outputs ∧ t.half = s.half)

/-! ## U5 InteractiveCodecFSM -/

/-- R253, on the character codes and digit values the spec takes from general knowledge (93 G1, G2; log entry 17): the
value of each hexadecimal digit and INVALID for every other code; no state is written. -/
def Obligations.HexvalOfEveryCharacter : Prop :=
  ∀ (c : CharCode) (s : State), ∃ r : Option Nibble,
    exec (.hexval c) s = .next (s.emit (.hexResult r)) ∧
    (0x30 ≤ c.toNat → c.toNat ≤ 0x39 → ∃ n, r = some n ∧ n.toNat = c.toNat - 0x30) ∧
    (0x41 ≤ c.toNat → c.toNat ≤ 0x46 → ∃ n, r = some n ∧ n.toNat = c.toNat - 0x41 + 10) ∧
    (0x61 ≤ c.toNat → c.toNat ≤ 0x66 → ∃ n, r = some n ∧ n.toNat = c.toNat - 0x61 + 10) ∧
    (¬ (0x30 ≤ c.toNat ∧ c.toNat ≤ 0x39) → ¬ (0x41 ≤ c.toNat ∧ c.toNat ≤ 0x46) →
      ¬ (0x61 ≤ c.toNat ∧ c.toNat ≤ 0x66) → r = none)

/-- R251 (the spec's decision D21): a first character waits; a second one completes the token, which the decoder
selects from the two characters and the mode, and which completes in the same step. -/
def Obligations.CharactersPairIntoTokens : Prop :=
  ∀ (ch : CharCode) (s : State),
    (s.pendValid = false → exec (.charIn ch) s = .next { s with pendChar := ch, pendValid := true }) ∧
    (s.pendValid = true →
      exec (.charIn ch) s = exec (decodeToken s.mode s.pendChar ch) { s with pendValid := false } ∧
      ∃ t, exec (.charIn ch) s = .next t ∧ t.pendValid = false)

/-- R252 and R104, on the codes of 93 G1 (log entry 17) and with the first character high (the spec's decision D22):
the order of the dispatch. Commands are exactly the three pairs; a token that is none is invalid exactly when a
character is no hexadecimal digit; otherwise it denotes `hi*16 + lo` and the mode routes it. -/
def Obligations.TokenDispatchOrder : Prop :=
  ∀ (m : Mode) (c1 c2 : CharCode),
    (decodeToken m c1 c2 = .tokCmdEncode ↔ c1 = 0x23#8 ∧ c2 = 0x23#8) ∧
    (decodeToken m c1 c2 = .tokCmdDecode ↔ c1 = 0x2A#8 ∧ c2 = 0x2A#8) ∧
    (decodeToken m c1 c2 = .tokCmdIdle ↔ c1 = 0x21#8 ∧ c2 = 0x21#8) ∧
    (decodeToken m c1 c2 = .tokInvalid c1 c2 ↔
      ¬ (c1 = c2 ∧ (c1 = 0x23#8 ∨ c1 = 0x2A#8 ∨ c1 = 0x21#8)) ∧ (hexValue c1 = none ∨ hexValue c2 = none)) ∧
    (∀ hi lo, hexValue c1 = some hi → hexValue c2 = some lo →
      ∃ b : Byte, b.toNat = hi.toNat * 16 + lo.toNat ∧
        decodeToken m c1 c2 =
          match m with
          | .idle => .tokDataIdle b
          | .encode => .tokDataEncode b
          | .decode => .tokDataDecode b)

/-- R255 to R258 (the spec's decisions D24 and D26): each command token enters its mode from every mode, with the
entry's resets when the mode changes or CMD_SAME_MODE_RESETS holds. -/
def Obligations.CommandTokensEnterTheirMode : Prop :=
  ∀ (s : State) (i : Instr) (m : Mode),
    (i = .tokCmdEncode ∧ m = .encode) ∨ (i = .tokCmdDecode ∧ m = .decode) ∨ (i = .tokCmdIdle ∧ m = .idle) →
    (s.mode ≠ m ∨ s.build.cmdSameModeResets = true →
      exec i s = .next { s with mode := m, half := .low, lastValid := false, dispValid := false }) ∧
    (s.mode = m → s.build.cmdSameModeResets = false → exec i s = .next s)

/-- R259, on the character codes of 93 G1 and the digits of G2 (log entry 17, PRESUMED): an invalid token is reported to
the log once and changes nothing, in every mode. -/
def Obligations.InvalidTokenOnlyLogs : Prop :=
  ∀ (s : State) (c1 c2 : CharCode),
    ¬ (c1 = c2 ∧ (c1 = 0x23#8 ∨ c1 = 0x2A#8 ∨ c1 = 0x21#8)) → (hexValue c1 = none ∨ hexValue c2 = none) →
    exec (.tokInvalid c1 c2) s = .next { s with outputs := s.outputs ++ [.logError] }

/-- R260 (the spec's decision D23): a data byte in Idle is consumed and ignored. -/
def Obligations.IdleIgnoresData : Prop :=
  ∀ (s : State) (b : Byte), s.mode = .idle → exec (.tokDataIdle b) s = .next s

/-- R261, R262: a data byte is encoded in Encode, decoded and classified in Decode. `disp_valid` is the spec's decision
D26, that a result replaces the one before is D28, and that the nibble is stored for every class is D29. -/
def Obligations.DataTokensFollowTheMode : Prop :=
  ∀ (s : State) (b : Byte),
    (s.mode = .encode → ∃ lo hi : CodedByte,
      exec (.enc (b.extractLsb' 0 4)) s = .next (s.emit (.encCode lo)) ∧
      exec (.enc (b.extractLsb' 4 4)) s = .next (s.emit (.encCode hi)) ∧
      exec (.tokDataEncode b) s = .next { s with codeLo := lo, codeHi := hi, dispValid := true }) ∧
    (s.mode = .decode → ∃ (r : DecResult) (k : ErrClass),
      exec (.dec b) s = .next (s.emit (.decResult r)) ∧ exec (.cls b) s = .next (s.emit (.decClass k)) ∧
      exec (.tokDataDecode b) s =
        .next { s with decNib := r.nibble, lastClass := k, lastValid := true, dispValid := true })

/-- R264 (in every mode by the spec's decision D30): the toggle inverts `half` in every mode and touches nothing else;
twice it is undone. -/
def Obligations.ToggleInvertsHalf : Prop :=
  ∀ s : State, ∃ h, exec .toggleHalf s = .next { s with half := h } ∧
    (s.half = .low → h = .high) ∧ (s.half = .high → h = .low) ∧
    exec .toggleHalf { s with half := h } = .next s

/-- R266: what the display output shows; in Idle, from every state that meets the invariant, `disp_valid` is 0. The flag is
the spec's decision D26. That `disp_o` has a content exactly when `disp_valid_o` is 1 is the model's option type (log
entry 12, DEDUCED): R266 calls the content unspecified otherwise (93 X3). -/
def Obligations.DisplayShowsTheSelectedValue : Prop :=
  ∀ s : State,
    (s.dispValidO = true ↔ s.dispValid = true ∧ (s.mode = .encode ∨ s.mode = .decode)) ∧
    (s.dispO.isSome = s.dispValidO) ∧
    (s.mode = .encode → s.dispValid = true → s.half = .low → s.dispO = some s.codeLo) ∧
    (s.mode = .encode → s.dispValid = true → s.half = .high → s.dispO = some s.codeHi) ∧
    (s.mode = .decode → s.dispValid = true → ∃ d, s.dispO = some d ∧ d.toNat = s.decNib.toNat) ∧
    (s.Inv → s.mode = .idle → s.dispValid = false)

/-- R267 (the spec's decision D28): the three indicators as functions of the last class and IND_PARITY_ONLY, and that
at most one is lit. -/
def Obligations.IndicatorsFollowTheClass : Prop :=
  ∀ s : State,
    (s.lastValid = false → s.indOk = false ∧ s.indCorr = false ∧ s.indUnc = false) ∧
    (s.lastValid = true →
      (s.indOk = true ↔ s.lastClass = .noError ∨ (s.lastClass = .parityOnly ∧ s.build.indParityOnly = .ok)) ∧
      (s.indCorr = true ↔
        s.lastClass = .singleCorrected ∨ (s.lastClass = .parityOnly ∧ s.build.indParityOnly = .corrected)) ∧
      (s.indUnc = true ↔ s.lastClass = .doubleUncorrectable)) ∧
    ¬ (s.indOk = true ∧ s.indCorr = true) ∧ ¬ (s.indOk = true ∧ s.indUnc = true) ∧
    ¬ (s.indCorr = true ∧ s.indUnc = true)

/-- R69 and R70 (the spec's decision D27): the 16-bit coded value of Encode mode is the pair of frame bytes PKT_ENC
gives for the byte. -/
def Obligations.EncodeModeMirrorsThePacketCodec : Prop :=
  ∀ (s t : State) (b : Byte) (p : Payload) (i : Fin 16), p[i] = b → s.mode = .encode →
    exec (.tokDataEncode b) s = .next t →
    ∃ f : Frame, exec (.pktEnc p) s = .next (s.emit (.peFrame f)) ∧
      t.coded16 = f[2 * i.val + 1] ++ f[2 * i.val]

/-- R268: the log is written once by every invalid token and by nothing else. -/
def Obligations.OnlyInvalidTokensAreLogged : Prop :=
  ∀ (i : Instr) (s t : State), exec i s = .next t →
    timesEmitted .logError t.outputs = timesEmitted .logError s.outputs +
      (match i with
       | .tokInvalid _ _ => 1
       | .charIn ch => if s.pendValid && isInvalidToken s.pendChar ch then 1 else 0
       | _ => 0)

/-- R29 and R315, on the codes of 93 G1 (log entry 17): only the command tokens and RESET change the mode. -/
def Obligations.OnlyCommandsChangeTheMode : Prop :=
  ∀ (i : Instr) (s t : State), exec i s = .next t → t.mode ≠ s.mode →
    (i = .tokCmdEncode ∧ t.mode = .encode) ∨ (i = .tokCmdDecode ∧ t.mode = .decode) ∨
    (i = .tokCmdIdle ∧ t.mode = .idle) ∨ (i = .reset ∧ t.mode = .idle) ∨
    (∃ ch, i = .charIn ch ∧ s.pendValid = true ∧ s.pendChar = ch ∧
      ((ch = 0x23#8 ∧ t.mode = .encode) ∨ (ch = 0x2A#8 ∧ t.mode = .decode) ∨ (ch = 0x21#8 ∧ t.mode = .idle)))

/-- R30 (the spec's decision D21): only CHAR_IN and RESET write the waiting character and its flag; a toggle, a sample
or any turn of another agent between the two characters of a token does not disturb it. -/
def Obligations.WaitingCharacterIsUndisturbed : Prop :=
  ∀ (i : Instr) (s t : State), exec i s = .next t → i ≠ .reset → (∀ ch, i ≠ .charIn ch) →
    t.pendValid = s.pendValid ∧ t.pendChar = s.pendChar

/-! ## Reset -/

/-- R330 (the values of R20, by the spec's decisions D9, D38 and D42 and the source's Standby and Idle): what RESET
writes, that it puts out nothing, and that it keeps the model's `inputs` and `cycle` (log entry 1). Of the six registers the spec
leaves unspecified nothing is said. -/
def Obligations.ResetWritesTheResetValues : Prop :=
  ∀ s : State, ∃ t, exec .reset s = .next t ∧
    t.q = [] ∧ t.txState = .standby ∧ t.mode = .idle ∧ t.pendValid = false ∧ t.half = .low ∧
    t.dispValid = false ∧ t.lastValid = false ∧
    t.buttons = List.replicate s.build.nButtons ⟨0, false, 0⟩ ∧
    t.outputs = s.outputs ∧ t.build = s.build ∧ t.inputs = s.inputs ∧ t.cycle = s.cycle

/-- What R332 derives from R330 and R24: the outputs right after reset, in the model's reset state and after the
operation RESET, which puts out no pulse. R332 calls `disp_o` unspecified there; the clause `disp_o = none` is how the
model's option type says so (log entry 12, DEDUCED). -/
def Obligations.OutputsRightAfterReset : Prop :=
  ∀ t : State, (t = State.reset ∨ ∃ s, exec .reset s = .next t) →
    t.empty = true ∧ t.full = false ∧ t.countQ = 0#4 ∧ t.pushReady = true ∧ t.txReq = false ∧
    t.modeO = 0#2 ∧ t.halfO = 0#1 ∧ t.dispValidO = false ∧ t.dispO = none ∧
    t.indOk = false ∧ t.indCorr = false ∧ t.indUnc = false ∧ t.lastValidO = false ∧
    (∀ id, id < t.build.nButtons → t.pressedO id = some false ∧ t.countO id = some 0) ∧
    (∀ s, exec .reset s = .next t → t.outputs = s.outputs)

/-! ## The whole block -/

/-- The invariant (R183, R210, R271) holds right after reset. -/
def Obligations.ResetMeetsTheInvariant : Prop := State.reset.Inv

/-- The invariants R183, R210 and R271 derive: every step of every agent, from every state that meets the invariant,
keeps it. -/
def Obligations.EveryStepKeepsTheInvariant : Prop :=
  ∀ s t : State, s.Inv → step s = .next t → t.Inv

/-- R300 and 93 X6, with the model's presentation of the environment (log entries 1, 4 and 8): the block never stops.
From every state that meets the invariant, with an environment that presents what the ports can carry and times that
do not run backwards, a step gives a next state. -/
def Obligations.BlockNeverStops : Prop :=
  ∀ s : State, s.Inv → s.EnvOk → ∃ t, step s = .next t

/-- R300 and 93 X6, with the model's refusals (log entries 6 and 8): from a state that meets the invariant a step is
refused only for what the environment presents: wires no port has, a point inside the block, or a sample earlier than
the button's last. No step faults. -/
def Obligations.OnlyTheEnvironmentIsRefused : Prop :=
  ∀ s : State, s.Inv →
    (∀ f, step s ≠ .fault f) ∧
    ∀ r, step s = .refused r →
      ∃ st u, s.presented = some (st, u) ∧ ((∃ e, r = .badWires e) ∨ r = .internalPoint ∨
        ∃ id raw now b, r = .timeBackwards id ∧
          decode s.context st = .ok (.dbSample id raw now) ∧ s.buttons[id]? = some b ∧ now < b.lastTime)

/-- The model's step (log entries 1, 4 and 11) runs the decoded operation: the next stimulus at a port, decoded in the
present state, is taken off the inputs (off the cycle begun anew, when they are used up) and executed, with the toggle
wire around it. With nothing presented it is a turn of TXP under some lock grant, or no agent steps: which of these is a
free value. -/
def Obligations.StepRunsTheDecodedOperation : Prop :=
  ∀ s : State,
    (∀ st rest i, s.inputs = st :: rest → st.select.external = true → decode s.context st = .ok i →
      step s = wireToggle i { s with inputs := rest } (exec i { s with inputs := rest })) ∧
    (∀ st rest i, s.inputs = [] → s.cycle = st :: rest → st.select.external = true → decode s.context st = .ok i →
      step s = wireToggle i { s with inputs := rest } (exec i { s with inputs := rest })) ∧
    (s.inputs = [] → s.cycle = [] →
      step s = match Config.unscheduledTurn s.freeIdx with
        | some g => exec (txpTurn s.txState s.q.isEmpty g) { s with freeIdx := s.freeIdx + 1 }
        | none => .next { s with freeIdx := s.freeIdx + 1 })

/-- R107 (the spec's decision D3) and the formats of R90, in the model's stimuli (log entry 6): decoding the encoding
of any well-formed operation, at every value of its operands and in every state that enables it, gives that operation.
-/
def Obligations.DecodeGivesBackEveryOperation : Prop :=
  ∀ (c : Context) (i : Instr), i.wellFormed c.nButtons = true → enabledIn c i = true → decode c (encode i) = .ok i

/-- What the model's decoder (log entry 6) gives is well-formed, enabled in the state it was read in, and encoded at
the same point. -/
def Obligations.DecodedOperationsAreWellFormed : Prop :=
  ∀ (c : Context) (st : Stimulus) (i : Instr), decode c st = .ok i →
    i.wellFormed c.nButtons = true ∧ enabledIn c i = true ∧ (encode i).select = st.select

/-- Words written out from the formats of R90 to R106, on the model's stimuli (log entry 6), decode to the operations
they stand for. The codes of the command characters and of the digits are 93 G1 and G2 (log entry 17, PRESUMED), and
the first digit is the high one by the spec's decision D22. -/
def Obligations.WordsOfTheFormatsDecode : Prop :=
  ∀ c : Context,
    decode c ⟨.enc, [0b00001101#8]⟩ = .ok (.enc 0xD#4) ∧
    decode c ⟨.dec, [0b00001101#8]⟩ = .ok (.dec 0x0D#8) ∧
    decode c ⟨.token, [0x23#8, 0x23#8]⟩ = .ok .tokCmdEncode ∧
    decode c ⟨.token, [0x2A#8, 0x2A#8]⟩ = .ok .tokCmdDecode ∧
    decode c ⟨.token, [0x21#8, 0x21#8]⟩ = .ok .tokCmdIdle ∧
    decode c ⟨.token, [0x31#8, 0x47#8]⟩ = .ok (.tokInvalid 0x31#8 0x47#8) ∧
    (c.mode = .decode → decode c ⟨.token, [0x31#8, 0x64#8]⟩ = .ok (.tokDataDecode 0x1D#8)) ∧
    (0 < c.nButtons → decode c ⟨.sample 0, [0x01#8, 0xE8#8, 0x03#8]⟩ = .ok (.dbSample 0 true 1000)) ∧
    (c.txState = .transmit → decode c ⟨.txp, [0x01#8]⟩ = .ok .txSend)

/-- R22 and 93 X15, in the model's trace of outputs (log entries 3 and 10): no step writes a parameter of the build,
and a step only appends to what was put out, at most two. -/
def Obligations.ParametersStayAndOutputsGrow : Prop :=
  ∀ s t : State, step s = .next t →
    t.build = s.build ∧ ∃ os, t.outputs = s.outputs ++ os ∧ os.length ≤ 2

/-- R3 (the codec not shared by the spec's decision D41): the two data paths are independent. No operation but RESET
writes both paths, and what an operation does to one path does not depend on the other: in two states that agree on
path B an operation of U5 or U6 gives states that agree on path B and leaves path A alone, and the other way round for
an operation of U3 or U4. -/
def Obligations.DataPathsAreIndependent : Prop :=
  ∀ (i : Instr) (s s' t : State), i ≠ .reset → exec i s = .next t → s'.build = s.build →
    (t.pathA = s.pathA ∨ t.pathB = s.pathB) ∧
    (s'.pathB = s.pathB → t.pathB ≠ s.pathB → ∃ t', exec i s' = .next t' ∧ t'.pathB = t.pathB ∧ t'.pathA = s'.pathA) ∧
    (s'.pathA = s.pathA → t.pathA ≠ s.pathA → ∃ t', exec i s' = .next t' ∧ t'.pathA = t.pathA ∧ t'.pathB = s'.pathB)

/-! ## Operations on one clock edge -/

/-- R181 (the spec's decision D12; log entry 15): a push and a turn of U4 in Standby on the same edge, each against
the occupancy before the edge. -/
def Obligations.PushAndPopOnOneEdge : Prop :=
  ∀ (s : State) (p : Payload) (g : Bool) (now : Nat), s.txState = .standby → s.q.length ≤ 10 →
    ∃ t, edge s ⟨false, some p, some g, none, [], [], now, false⟩ = .next t ∧ t.inputs = s.inputs ∧
      (s.q = [] → t.q = [p] ∧ t.txState = .standby ∧ t.outputs = s.outputs ++ [.accepted true]) ∧
      (∀ a rest, s.q = a :: rest →
        t.txState = .transmit ∧ (∃ f, exec (.pktEnc a) s = .next (s.emit (.peFrame f)) ∧ t.txFrame = f) ∧
        (s.q.length < 10 → t.q = rest ++ [p] ∧ t.outputs = s.outputs ++ [.accepted true]) ∧
        (s.q.length = 10 → t.q = rest ∧ t.outputs = s.outputs ++ [.accepted false]))

/-- R312 (a) (the spec's decisions D1 and D2; log entry 15): RESET on an edge takes effect alone, whatever else is
asserted. -/
def Obligations.ResetOverridesTheEdge : Prop :=
  ∀ (s : State) (e : Edge), e.rst = true → edge s e = exec .reset s

/-- R270 and R312 (c) (the spec's decision D30; log entry 15): a character that completes a token acts before a toggle
on the same edge: `##` with a toggle leaves the high half selected. The code of `#` is 93 G1 (log entry 17, PRESUMED). -/
def Obligations.TokenActsBeforeToggle : Prop :=
  ∀ (s : State) (ch : CharCode) (now : Nat),
    ∃ t u, exec (.charIn ch) s = .next t ∧ exec .toggleHalf t = .next u ∧
      edge s ⟨false, none, none, some ch, [], [], now, true⟩ = .next u ∧
      (s.pendValid = true → s.pendChar = 0x23#8 → ch = 0x23#8 → s.mode ≠ .encode → u.half = .high)

/-- R236 and R312 (d) (the spec's decision D37; log entry 15): PRESS_RESET and a registering sample of one button on
one edge: the reset first, so the counter is 1. -/
def Obligations.ResetThenSampleOnOneEdge : Prop :=
  ∀ (s : State) (id : Nat) (raw : Bool) (now : Nat) (b : PressState),
    s.buttons[id]? = some b → id < s.build.nButtons → b.lastTime ≤ now →
    ∃ t, edge s ⟨false, none, none, none, [id], [(id, raw)], now, false⟩ = .next t ∧
      (s.pressRegisters id raw now = true → t.buttons[id]? = some ⟨now, true, 1⟩) ∧
      (s.pressRegisters id raw now = false → ∃ b', t.buttons[id]? = some b' ∧ b'.count = 0)
end

