-- ==== Sys2Proof/Laws/Operands.lean ====
section
/-! SUPPORT. Reading the wires of a port gives back what was put on them, and the arithmetic of nibbles, bytes, hexadecimal
digits and tokens. -/

namespace Sys2Proof.Machine

@[simp] theorem lowNibble_join (hi lo : Nibble) : lowNibble (joinNibbles hi lo) = lo := by
  revert hi lo; decide

@[simp] theorem highNibble_join (hi lo : Nibble) : highNibble (joinNibbles hi lo) = hi := by
  revert hi lo; decide

@[simp] theorem join_nibbles (b : Byte) : joinNibbles (highNibble b) (lowNibble b) = b := by
  revert b; decide

/-- Byte assembly is `hi*16 + lo`, without overflow (R16 (b), R254). -/
theorem joinNibbles_toNat (hi lo : Nibble) : (joinNibbles hi lo).toNat = hi.toNat * 16 + lo.toNat := by
  revert hi lo; decide

@[simp] theorem hexValue_hexDigit (n : Nibble) : hexValue (hexDigit n) = some n := by
  revert n; decide

theorem hexDigit_ne_command (n : Nibble) :
    hexDigit n ≠ charHash ∧ hexDigit n ≠ charStar ∧ hexDigit n ≠ charBang := by
  revert n; decide

/-- A command character is no hexadecimal digit (R104), so no token is both a command and data. -/
theorem hexValue_command : hexValue charHash = none ∧ hexValue charStar = none ∧ hexValue charBang = none := by
  decide

theorem tokenByte_some {c1 c2 : CharCode} {hi lo : Nibble} (h1 : hexValue c1 = some hi) (h2 : hexValue c2 = some lo) :
    tokenByte c1 c2 = some (joinNibbles hi lo) := by
  simp [tokenByte, h1, h2]

theorem tokenByte_eq_none {c1 c2 : CharCode} : tokenByte c1 c2 = none ↔ hexValue c1 = none ∨ hexValue c2 = none := by
  unfold tokenByte
  cases h1 : hexValue c1 <;> cases h2 : hexValue c2 <;> simp

@[simp] theorem tokenByte_digits (b : Byte) : tokenByte (hexDigit (highNibble b)) (hexDigit (lowNibble b)) = some b := by
  rw [tokenByte_some (hexValue_hexDigit _) (hexValue_hexDigit _), join_nibbles]

theorem isCommand_iff (c1 c2 : CharCode) :
    isCommand c1 c2 = true ↔ c1 = c2 ∧ (c1 = charHash ∨ c1 = charStar ∨ c1 = charBang) := by
  simp [isCommand, or_assoc]

theorem isInvalidToken_iff (c1 c2 : CharCode) :
    isInvalidToken c1 c2 = true ↔
      ¬ (c1 = c2 ∧ (c1 = charHash ∨ c1 = charStar ∨ c1 = charBang)) ∧ (hexValue c1 = none ∨ hexValue c2 = none) := by
  rw [← isCommand_iff, ← tokenByte_eq_none]
  simp [isInvalidToken, Option.isNone_iff_eq_none]

@[simp] theorem readNibble_wire (n : Nibble) : readNibble [n.setWidth 8] = .ok n := by
  revert n; decide

@[simp] theorem bitOf_wire (b : Bool) : bitOf (byteOfBit b) = .ok b := by
  cases b <;> rfl

@[simp] theorem readBit_wire (b : Bool) : readBit [byteOfBit b] = .ok b := bitOf_wire b

@[simp] theorem readBytes_toList {n : Nat} (v : Vector Byte n) : readBytes n v.toList = .ok v := by
  have h : v.toList.length = n := Vector.length_toList
  unfold readBytes
  rw [dif_pos h]
  congr 1

theorem timeOfBytes_bytesOfTime : ∀ fuel t, t ≤ fuel → timeOfBytes (bytesOfTime fuel t) = t
  | 0, t, h => by have : t = 0 := by omega
                  subst this; rfl
  | fuel + 1, t, h => by
    unfold bytesOfTime
    split
    case isTrue h0 => rw [h0]; rfl
    case isFalse h0 =>
      have hd : t / 256 ≤ fuel := by omega
      rw [timeOfBytes, timeOfBytes_bytesOfTime fuel (t / 256) hd, BitVec.toNat_ofNat]
      exact Nat.mod_add_div t 256

@[simp] theorem readSample_wires (raw : Bool) (now : Nat) : readSample (sampleBytes raw now) = .ok (raw, now) := by
  simp [readSample, sampleBytes, Except.map, timeOfBytes_bytesOfTime now now (Nat.le_refl now)]

theorem checkButton_of_lt {α : Type} {n : Nat} {id : Nat} (h : id < n) (r : Except WireError α) :
    checkButton n id r = r := by
  simp [checkButton, h]

end Sys2Proof.Machine
end

