-- ==== Sys2Proof/Laws/State.lean ====
section
/-! SUPPORT. One lemma for each field of State under each named update: what the update writes and what it keeps. -/

namespace Sys2Proof.Machine

@[simp] theorem State.emit_q (s : State) (o : Output) : (s.emit o).q = s.q := rfl
@[simp] theorem State.emit_txState (s : State) (o : Output) : (s.emit o).txState = s.txState := rfl
@[simp] theorem State.emit_txFrame (s : State) (o : Output) : (s.emit o).txFrame = s.txFrame := rfl
@[simp] theorem State.emit_mode (s : State) (o : Output) : (s.emit o).mode = s.mode := rfl
@[simp] theorem State.emit_pendValid (s : State) (o : Output) : (s.emit o).pendValid = s.pendValid := rfl
@[simp] theorem State.emit_pendChar (s : State) (o : Output) : (s.emit o).pendChar = s.pendChar := rfl
@[simp] theorem State.emit_half (s : State) (o : Output) : (s.emit o).half = s.half := rfl
@[simp] theorem State.emit_codeLo (s : State) (o : Output) : (s.emit o).codeLo = s.codeLo := rfl
@[simp] theorem State.emit_codeHi (s : State) (o : Output) : (s.emit o).codeHi = s.codeHi := rfl
@[simp] theorem State.emit_decNib (s : State) (o : Output) : (s.emit o).decNib = s.decNib := rfl
@[simp] theorem State.emit_dispValid (s : State) (o : Output) : (s.emit o).dispValid = s.dispValid := rfl
@[simp] theorem State.emit_lastValid (s : State) (o : Output) : (s.emit o).lastValid = s.lastValid := rfl
@[simp] theorem State.emit_lastClass (s : State) (o : Output) : (s.emit o).lastClass = s.lastClass := rfl
@[simp] theorem State.emit_buttons (s : State) (o : Output) : (s.emit o).buttons = s.buttons := rfl
@[simp] theorem State.emit_build (s : State) (o : Output) : (s.emit o).build = s.build := rfl
@[simp] theorem State.emit_inputs (s : State) (o : Output) : (s.emit o).inputs = s.inputs := rfl
@[simp] theorem State.emit_cycle (s : State) (o : Output) : (s.emit o).cycle = s.cycle := rfl
@[simp] theorem State.emit_outputs (s : State) (o : Output) : (s.emit o).outputs = s.outputs ++ [o] := rfl
@[simp] theorem State.emit_freeIdx (s : State) (o : Output) : (s.emit o).freeIdx = s.freeIdx := rfl

@[simp] theorem State.setInputs_q (s : State) (ins : List Stimulus) : (s.setInputs ins).q = s.q := rfl
@[simp] theorem State.setInputs_txState (s : State) (ins : List Stimulus) : (s.setInputs ins).txState = s.txState := rfl
@[simp] theorem State.setInputs_txFrame (s : State) (ins : List Stimulus) : (s.setInputs ins).txFrame = s.txFrame := rfl
@[simp] theorem State.setInputs_mode (s : State) (ins : List Stimulus) : (s.setInputs ins).mode = s.mode := rfl
@[simp] theorem State.setInputs_pendValid (s : State) (ins : List Stimulus) : (s.setInputs ins).pendValid = s.pendValid := rfl
@[simp] theorem State.setInputs_pendChar (s : State) (ins : List Stimulus) : (s.setInputs ins).pendChar = s.pendChar := rfl
@[simp] theorem State.setInputs_half (s : State) (ins : List Stimulus) : (s.setInputs ins).half = s.half := rfl
@[simp] theorem State.setInputs_codeLo (s : State) (ins : List Stimulus) : (s.setInputs ins).codeLo = s.codeLo := rfl
@[simp] theorem State.setInputs_codeHi (s : State) (ins : List Stimulus) : (s.setInputs ins).codeHi = s.codeHi := rfl
@[simp] theorem State.setInputs_decNib (s : State) (ins : List Stimulus) : (s.setInputs ins).decNib = s.decNib := rfl
@[simp] theorem State.setInputs_dispValid (s : State) (ins : List Stimulus) : (s.setInputs ins).dispValid = s.dispValid := rfl
@[simp] theorem State.setInputs_lastValid (s : State) (ins : List Stimulus) : (s.setInputs ins).lastValid = s.lastValid := rfl
@[simp] theorem State.setInputs_lastClass (s : State) (ins : List Stimulus) : (s.setInputs ins).lastClass = s.lastClass := rfl
@[simp] theorem State.setInputs_buttons (s : State) (ins : List Stimulus) : (s.setInputs ins).buttons = s.buttons := rfl
@[simp] theorem State.setInputs_build (s : State) (ins : List Stimulus) : (s.setInputs ins).build = s.build := rfl
@[simp] theorem State.setInputs_inputs (s : State) (ins : List Stimulus) : (s.setInputs ins).inputs = ins := rfl
@[simp] theorem State.setInputs_cycle (s : State) (ins : List Stimulus) : (s.setInputs ins).cycle = s.cycle := rfl
@[simp] theorem State.setInputs_outputs (s : State) (ins : List Stimulus) : (s.setInputs ins).outputs = s.outputs := rfl
@[simp] theorem State.setInputs_freeIdx (s : State) (ins : List Stimulus) : (s.setInputs ins).freeIdx = s.freeIdx := rfl

@[simp] theorem State.drawFree_q (s : State) (n : Nat) : (s.drawFree n).q = s.q := rfl
@[simp] theorem State.drawFree_txState (s : State) (n : Nat) : (s.drawFree n).txState = s.txState := rfl
@[simp] theorem State.drawFree_txFrame (s : State) (n : Nat) : (s.drawFree n).txFrame = s.txFrame := rfl
@[simp] theorem State.drawFree_mode (s : State) (n : Nat) : (s.drawFree n).mode = s.mode := rfl
@[simp] theorem State.drawFree_pendValid (s : State) (n : Nat) : (s.drawFree n).pendValid = s.pendValid := rfl
@[simp] theorem State.drawFree_pendChar (s : State) (n : Nat) : (s.drawFree n).pendChar = s.pendChar := rfl
@[simp] theorem State.drawFree_half (s : State) (n : Nat) : (s.drawFree n).half = s.half := rfl
@[simp] theorem State.drawFree_codeLo (s : State) (n : Nat) : (s.drawFree n).codeLo = s.codeLo := rfl
@[simp] theorem State.drawFree_codeHi (s : State) (n : Nat) : (s.drawFree n).codeHi = s.codeHi := rfl
@[simp] theorem State.drawFree_decNib (s : State) (n : Nat) : (s.drawFree n).decNib = s.decNib := rfl
@[simp] theorem State.drawFree_dispValid (s : State) (n : Nat) : (s.drawFree n).dispValid = s.dispValid := rfl
@[simp] theorem State.drawFree_lastValid (s : State) (n : Nat) : (s.drawFree n).lastValid = s.lastValid := rfl
@[simp] theorem State.drawFree_lastClass (s : State) (n : Nat) : (s.drawFree n).lastClass = s.lastClass := rfl
@[simp] theorem State.drawFree_buttons (s : State) (n : Nat) : (s.drawFree n).buttons = s.buttons := rfl
@[simp] theorem State.drawFree_build (s : State) (n : Nat) : (s.drawFree n).build = s.build := rfl
@[simp] theorem State.drawFree_inputs (s : State) (n : Nat) : (s.drawFree n).inputs = s.inputs := rfl
@[simp] theorem State.drawFree_cycle (s : State) (n : Nat) : (s.drawFree n).cycle = s.cycle := rfl
@[simp] theorem State.drawFree_outputs (s : State) (n : Nat) : (s.drawFree n).outputs = s.outputs := rfl
@[simp] theorem State.drawFree_freeIdx (s : State) (n : Nat) : (s.drawFree n).freeIdx = s.freeIdx + n := rfl

@[simp] theorem State.setButton_q (s : State) (id : Nat) (b : PressState) : (s.setButton id b).q = s.q := rfl
@[simp] theorem State.setButton_txState (s : State) (id : Nat) (b : PressState) : (s.setButton id b).txState = s.txState := rfl
@[simp] theorem State.setButton_txFrame (s : State) (id : Nat) (b : PressState) : (s.setButton id b).txFrame = s.txFrame := rfl
@[simp] theorem State.setButton_mode (s : State) (id : Nat) (b : PressState) : (s.setButton id b).mode = s.mode := rfl
@[simp] theorem State.setButton_pendValid (s : State) (id : Nat) (b : PressState) : (s.setButton id b).pendValid = s.pendValid := rfl
@[simp] theorem State.setButton_pendChar (s : State) (id : Nat) (b : PressState) : (s.setButton id b).pendChar = s.pendChar := rfl
@[simp] theorem State.setButton_half (s : State) (id : Nat) (b : PressState) : (s.setButton id b).half = s.half := rfl
@[simp] theorem State.setButton_codeLo (s : State) (id : Nat) (b : PressState) : (s.setButton id b).codeLo = s.codeLo := rfl
@[simp] theorem State.setButton_codeHi (s : State) (id : Nat) (b : PressState) : (s.setButton id b).codeHi = s.codeHi := rfl
@[simp] theorem State.setButton_decNib (s : State) (id : Nat) (b : PressState) : (s.setButton id b).decNib = s.decNib := rfl
@[simp] theorem State.setButton_dispValid (s : State) (id : Nat) (b : PressState) : (s.setButton id b).dispValid = s.dispValid := rfl
@[simp] theorem State.setButton_lastValid (s : State) (id : Nat) (b : PressState) : (s.setButton id b).lastValid = s.lastValid := rfl
@[simp] theorem State.setButton_lastClass (s : State) (id : Nat) (b : PressState) : (s.setButton id b).lastClass = s.lastClass := rfl
@[simp] theorem State.setButton_buttons (s : State) (id : Nat) (b : PressState) : (s.setButton id b).buttons = s.buttons.set id b := rfl
@[simp] theorem State.setButton_build (s : State) (id : Nat) (b : PressState) : (s.setButton id b).build = s.build := rfl
@[simp] theorem State.setButton_inputs (s : State) (id : Nat) (b : PressState) : (s.setButton id b).inputs = s.inputs := rfl
@[simp] theorem State.setButton_cycle (s : State) (id : Nat) (b : PressState) : (s.setButton id b).cycle = s.cycle := rfl
@[simp] theorem State.setButton_outputs (s : State) (id : Nat) (b : PressState) : (s.setButton id b).outputs = s.outputs := rfl
@[simp] theorem State.setButton_freeIdx (s : State) (id : Nat) (b : PressState) : (s.setButton id b).freeIdx = s.freeIdx := rfl

@[simp] theorem State.enterMode_q (s : State) (m : Mode) : (s.enterMode m).q = s.q := by
  unfold State.enterMode; split <;> rfl
@[simp] theorem State.enterMode_txState (s : State) (m : Mode) : (s.enterMode m).txState = s.txState := by
  unfold State.enterMode; split <;> rfl
@[simp] theorem State.enterMode_txFrame (s : State) (m : Mode) : (s.enterMode m).txFrame = s.txFrame := by
  unfold State.enterMode; split <;> rfl
@[simp] theorem State.enterMode_pendValid (s : State) (m : Mode) : (s.enterMode m).pendValid = s.pendValid := by
  unfold State.enterMode; split <;> rfl
@[simp] theorem State.enterMode_pendChar (s : State) (m : Mode) : (s.enterMode m).pendChar = s.pendChar := by
  unfold State.enterMode; split <;> rfl
@[simp] theorem State.enterMode_codeLo (s : State) (m : Mode) : (s.enterMode m).codeLo = s.codeLo := by
  unfold State.enterMode; split <;> rfl
@[simp] theorem State.enterMode_codeHi (s : State) (m : Mode) : (s.enterMode m).codeHi = s.codeHi := by
  unfold State.enterMode; split <;> rfl
@[simp] theorem State.enterMode_decNib (s : State) (m : Mode) : (s.enterMode m).decNib = s.decNib := by
  unfold State.enterMode; split <;> rfl
@[simp] theorem State.enterMode_lastClass (s : State) (m : Mode) : (s.enterMode m).lastClass = s.lastClass := by
  unfold State.enterMode; split <;> rfl
@[simp] theorem State.enterMode_buttons (s : State) (m : Mode) : (s.enterMode m).buttons = s.buttons := by
  unfold State.enterMode; split <;> rfl
@[simp] theorem State.enterMode_build (s : State) (m : Mode) : (s.enterMode m).build = s.build := by
  unfold State.enterMode; split <;> rfl
@[simp] theorem State.enterMode_inputs (s : State) (m : Mode) : (s.enterMode m).inputs = s.inputs := by
  unfold State.enterMode; split <;> rfl
@[simp] theorem State.enterMode_cycle (s : State) (m : Mode) : (s.enterMode m).cycle = s.cycle := by
  unfold State.enterMode; split <;> rfl
@[simp] theorem State.enterMode_outputs (s : State) (m : Mode) : (s.enterMode m).outputs = s.outputs := by
  unfold State.enterMode; split <;> rfl
@[simp] theorem State.enterMode_freeIdx (s : State) (m : Mode) : (s.enterMode m).freeIdx = s.freeIdx := by
  unfold State.enterMode; split <;> rfl
@[simp] theorem State.enterMode_mode (s : State) (m : Mode) : (s.enterMode m).mode = m := by
  unfold State.enterMode; split <;> rfl

@[simp] theorem State.pushed_txState (s : State) (p : Payload) : (s.pushed p).txState = s.txState := by
  unfold State.pushed; split <;> rfl
@[simp] theorem State.pushed_txFrame (s : State) (p : Payload) : (s.pushed p).txFrame = s.txFrame := by
  unfold State.pushed; split <;> rfl
@[simp] theorem State.pushed_mode (s : State) (p : Payload) : (s.pushed p).mode = s.mode := by
  unfold State.pushed; split <;> rfl
@[simp] theorem State.pushed_pendValid (s : State) (p : Payload) : (s.pushed p).pendValid = s.pendValid := by
  unfold State.pushed; split <;> rfl
@[simp] theorem State.pushed_pendChar (s : State) (p : Payload) : (s.pushed p).pendChar = s.pendChar := by
  unfold State.pushed; split <;> rfl
@[simp] theorem State.pushed_half (s : State) (p : Payload) : (s.pushed p).half = s.half := by
  unfold State.pushed; split <;> rfl
@[simp] theorem State.pushed_codeLo (s : State) (p : Payload) : (s.pushed p).codeLo = s.codeLo := by
  unfold State.pushed; split <;> rfl
@[simp] theorem State.pushed_codeHi (s : State) (p : Payload) : (s.pushed p).codeHi = s.codeHi := by
  unfold State.pushed; split <;> rfl
@[simp] theorem State.pushed_decNib (s : State) (p : Payload) : (s.pushed p).decNib = s.decNib := by
  unfold State.pushed; split <;> rfl
@[simp] theorem State.pushed_dispValid (s : State) (p : Payload) : (s.pushed p).dispValid = s.dispValid := by
  unfold State.pushed; split <;> rfl
@[simp] theorem State.pushed_lastValid (s : State) (p : Payload) : (s.pushed p).lastValid = s.lastValid := by
  unfold State.pushed; split <;> rfl
@[simp] theorem State.pushed_lastClass (s : State) (p : Payload) : (s.pushed p).lastClass = s.lastClass := by
  unfold State.pushed; split <;> rfl
@[simp] theorem State.pushed_buttons (s : State) (p : Payload) : (s.pushed p).buttons = s.buttons := by
  unfold State.pushed; split <;> rfl
@[simp] theorem State.pushed_build (s : State) (p : Payload) : (s.pushed p).build = s.build := by
  unfold State.pushed; split <;> rfl
@[simp] theorem State.pushed_inputs (s : State) (p : Payload) : (s.pushed p).inputs = s.inputs := by
  unfold State.pushed; split <;> rfl
@[simp] theorem State.pushed_cycle (s : State) (p : Payload) : (s.pushed p).cycle = s.cycle := by
  unfold State.pushed; split <;> rfl
@[simp] theorem State.pushed_outputs (s : State) (p : Payload) : (s.pushed p).outputs = s.outputs := by
  unfold State.pushed; split <;> rfl
@[simp] theorem State.pushed_freeIdx (s : State) (p : Payload) : (s.pushed p).freeIdx = s.freeIdx := by
  unfold State.pushed; split <;> rfl

@[simp] theorem State.takeOldest_txState (s : State) : s.takeOldest.2.txState = s.txState := by
  unfold State.takeOldest; split <;> rfl
@[simp] theorem State.takeOldest_txFrame (s : State) : s.takeOldest.2.txFrame = s.txFrame := by
  unfold State.takeOldest; split <;> rfl
@[simp] theorem State.takeOldest_mode (s : State) : s.takeOldest.2.mode = s.mode := by
  unfold State.takeOldest; split <;> rfl
@[simp] theorem State.takeOldest_pendValid (s : State) : s.takeOldest.2.pendValid = s.pendValid := by
  unfold State.takeOldest; split <;> rfl
@[simp] theorem State.takeOldest_pendChar (s : State) : s.takeOldest.2.pendChar = s.pendChar := by
  unfold State.takeOldest; split <;> rfl
@[simp] theorem State.takeOldest_half (s : State) : s.takeOldest.2.half = s.half := by
  unfold State.takeOldest; split <;> rfl
@[simp] theorem State.takeOldest_codeLo (s : State) : s.takeOldest.2.codeLo = s.codeLo := by
  unfold State.takeOldest; split <;> rfl
@[simp] theorem State.takeOldest_codeHi (s : State) : s.takeOldest.2.codeHi = s.codeHi := by
  unfold State.takeOldest; split <;> rfl
@[simp] theorem State.takeOldest_decNib (s : State) : s.takeOldest.2.decNib = s.decNib := by
  unfold State.takeOldest; split <;> rfl
@[simp] theorem State.takeOldest_dispValid (s : State) : s.takeOldest.2.dispValid = s.dispValid := by
  unfold State.takeOldest; split <;> rfl
@[simp] theorem State.takeOldest_lastValid (s : State) : s.takeOldest.2.lastValid = s.lastValid := by
  unfold State.takeOldest; split <;> rfl
@[simp] theorem State.takeOldest_lastClass (s : State) : s.takeOldest.2.lastClass = s.lastClass := by
  unfold State.takeOldest; split <;> rfl
@[simp] theorem State.takeOldest_buttons (s : State) : s.takeOldest.2.buttons = s.buttons := by
  unfold State.takeOldest; split <;> rfl
@[simp] theorem State.takeOldest_build (s : State) : s.takeOldest.2.build = s.build := by
  unfold State.takeOldest; split <;> rfl
@[simp] theorem State.takeOldest_inputs (s : State) : s.takeOldest.2.inputs = s.inputs := by
  unfold State.takeOldest; split <;> rfl
@[simp] theorem State.takeOldest_cycle (s : State) : s.takeOldest.2.cycle = s.cycle := by
  unfold State.takeOldest; split <;> rfl
@[simp] theorem State.takeOldest_outputs (s : State) : s.takeOldest.2.outputs = s.outputs := by
  unfold State.takeOldest; split <;> rfl
@[simp] theorem State.takeOldest_freeIdx (s : State) : s.takeOldest.2.freeIdx = s.freeIdx := by
  unfold State.takeOldest; split <;> rfl

@[simp] theorem State.afterReset_q (s : State) : s.afterReset.q = [] := rfl
@[simp] theorem State.afterReset_txState (s : State) : s.afterReset.txState = .standby := rfl
@[simp] theorem State.afterReset_mode (s : State) : s.afterReset.mode = .idle := rfl
@[simp] theorem State.afterReset_pendValid (s : State) : s.afterReset.pendValid = false := rfl
@[simp] theorem State.afterReset_half (s : State) : s.afterReset.half = .low := rfl
@[simp] theorem State.afterReset_dispValid (s : State) : s.afterReset.dispValid = false := rfl
@[simp] theorem State.afterReset_lastValid (s : State) : s.afterReset.lastValid = false := rfl
@[simp] theorem State.afterReset_buttons (s : State) : s.afterReset.buttons = s.build.assertedLevel.map fun _ => PressState.reset := rfl
@[simp] theorem State.afterReset_build (s : State) : s.afterReset.build = s.build := rfl
@[simp] theorem State.afterReset_inputs (s : State) : s.afterReset.inputs = s.inputs := rfl
@[simp] theorem State.afterReset_cycle (s : State) : s.afterReset.cycle = s.cycle := rfl
@[simp] theorem State.afterReset_outputs (s : State) : s.afterReset.outputs = s.outputs := rfl
@[simp] theorem State.afterReset_freeIdx (s : State) : s.afterReset.freeIdx = s.freeIdx + 3 := rfl

end Sys2Proof.Machine
end

