-- ==== Sys2Proof/Laws/Ops.lean ====
section
/-! SUPPORT. What each shared operation can do, once: the queue as storage and its bound, a button's PressState, the
entry of a mode, and the registers RESET writes. -/

namespace Sys2Proof.Machine

/-- The stored form of the queue (R23) as a bound on a list of payloads. -/
abbrev queueFits (q : List Payload) : Prop := q.length ≤ Config.queueDepth

theorem State.hasRoom_iff (s : State) : s.hasRoom = true ↔ s.q.length < 10 := by
  simp [State.hasRoom, Config.queueDepth]

/-- Q_PUSH on the storage with room: the payload is the newest. -/
theorem State.pushed_of_room {s : State} (h : s.q.length < 10) (p : Payload) :
    s.pushed p = { s with q := s.q ++ [p] } := by
  simp [State.pushed, (State.hasRoom_iff s).2 h]

/-- Q_PUSH on a full queue: nothing changes. -/
theorem State.pushed_of_full {s : State} (h : 10 ≤ s.q.length) (p : Payload) : s.pushed p = s := by
  have : s.hasRoom = false := by
    have := State.hasRoom_iff s
    cases hr : s.hasRoom with
    | false => rfl
    | true => have := this.1 hr; omega
  simp [State.pushed, this]

theorem State.pushed_keeps_fit {s : State} (h : queueFits s.q) (p : Payload) : queueFits (s.pushed p).q := by
  unfold State.pushed
  split
  case isTrue hr =>
    have := (State.hasRoom_iff s).1 hr
    simp [queueFits, Config.queueDepth]
    omega
  case isFalse => exact h

/-- What the environment presents next is the head of `inputs`, or, with `inputs` used up, that of `cycle`. -/
theorem State.presented_some {s u : State} {st : Stimulus} (h : s.presented = some (st, u)) :
    ∃ rest, u = s.setInputs rest ∧ (s.inputs = st :: rest ∨ (s.inputs = [] ∧ s.cycle = st :: rest)) := by
  unfold State.presented at h
  split at h
  · rename_i hi; cases h; exact ⟨_, rfl, .inl hi⟩
  · rename_i hi
    split at h
    · rename_i hc; cases h; exact ⟨_, rfl, .inr ⟨hi, hc⟩⟩
    · cases h

/-- Nothing is presented exactly when both lists are empty. -/
theorem State.presented_none {s : State} : s.presented = none ↔ s.inputs = [] ∧ s.cycle = [] := by
  unfold State.presented
  cases s.inputs <;> cases s.cycle <;> simp

theorem State.presented_of_inputs {s : State} {st : Stimulus} {rest : List Stimulus} (h : s.inputs = st :: rest) :
    s.presented = some (st, s.setInputs rest) := by
  simp [State.presented, h]

theorem State.presented_of_cycle {s : State} {st : Stimulus} {rest : List Stimulus} (hi : s.inputs = [])
    (h : s.cycle = st :: rest) : s.presented = some (st, s.setInputs rest) := by
  simp [State.presented, hi, h]

/-- Q_POP on the storage: "none" and no change, or the oldest payload and the rest. -/
theorem State.takeOldest_cases (s : State) :
    (s.q = [] ∧ s.takeOldest = (none, s)) ∨
    ∃ p rest, s.q = p :: rest ∧ s.takeOldest = (some p, { s with q := rest }) := by
  unfold State.takeOldest
  cases h : s.q with
  | nil => exact .inl ⟨rfl, rfl⟩
  | cons p rest => exact .inr ⟨p, rest, rfl, rfl⟩

theorem State.takeOldest_keeps_fit {s : State} (h : queueFits s.q) : queueFits s.takeOldest.2.q := by
  rcases State.takeOldest_cases s with ⟨_, e⟩ | ⟨p, rest, hq, e⟩ <;> rw [e]
  · exact h
  · simp [queueFits, hq, Config.queueDepth] at h ⊢
    omega

theorem State.reset_fits : queueFits State.reset.q := by decide

theorem State.afterReset_fits (s : State) : queueFits s.afterReset.q := by simp [queueFits]

/-- RESET leaves every element of R20 as `State.reset` has it, up to the free values and the model's own fields. -/
theorem State.afterReset_eq_reset (s : State) :
    s.afterReset.q = State.reset.q ∧ s.afterReset.txState = State.reset.txState ∧
    s.afterReset.mode = State.reset.mode ∧ s.afterReset.pendValid = State.reset.pendValid ∧
    s.afterReset.half = State.reset.half ∧ s.afterReset.dispValid = State.reset.dispValid ∧
    s.afterReset.lastValid = State.reset.lastValid :=
  ⟨rfl, rfl, rfl, rfl, rfl, rfl, rfl⟩

/-- ENTER with its resets (R255). -/
theorem State.enterMode_effective {s : State} {m : Mode} (h : s.mode ≠ m ∨ s.build.cmdSameModeResets = true) :
    s.enterMode m = { s with half := .low, lastValid := false, dispValid := false, mode := m } := by
  simp [State.enterMode, h]

/-- ENTER of the current mode where that resets nothing (R255). -/
theorem State.enterMode_same {s : State} {m : Mode} (h : s.mode = m) (hp : s.build.cmdSameModeResets = false) :
    s.enterMode m = s := by
  subst h
  simp [State.enterMode, hp]

theorem State.setButton_get_self {s : State} {id : Nat} {b : PressState} (h : id < s.buttons.length) :
    (s.setButton id b).buttons[id]? = some b := by
  simp [h]

theorem State.setButton_get_other {s : State} {id other : Nat} {b : PressState} (h : other ≠ id) :
    (s.setButton id b).buttons[other]? = s.buttons[other]? := by
  simp [List.getElem?_set_ne (Ne.symm h)]

end Sys2Proof.Machine
end

