-- ==== Sys2Proof/Laws/Exec.lean ====
section
/-! SUPPORT. What the dispatch of a token, a turn of TXP, a step and the wire on an edge can do, once. -/

namespace Sys2Proof.Machine

/-- The dispatch inside CHAR_IN (R252) executes the operation the decoder selects for the token (R104). -/
theorem dispatchToken_eq_exec (c1 c2 : CharCode) (s : State) :
    dispatchToken c1 c2 s = exec (decodeToken s.mode c1 c2) s := by
  unfold dispatchToken decodeToken
  split
  · rfl
  split
  · rfl
  split
  · rfl
  cases tokenByte c1 c2 with
  | none => rfl
  | some b => cases s.mode <;> rfl

/-- A completing CHAR_IN is the token's operation with the waiting character taken. -/
theorem execCharIn_completes {s : State} (h : s.pendValid = true) (ch : CharCode) :
    exec (.charIn ch) s = exec (decodeToken s.mode s.pendChar ch) { s with pendValid := false } := by
  show execCharIn ch s = _
  rw [execCharIn, if_pos h, dispatchToken_eq_exec]

/-- A first CHAR_IN only stores the character. -/
theorem execCharIn_first {s : State} (h : s.pendValid = false) (ch : CharCode) :
    exec (.charIn ch) s = .next { s with pendChar := ch, pendValid := true } := by
  show execCharIn ch s = _
  rw [execCharIn, if_neg (by simp [h])]

/-- The token the decoder calls invalid is an invalid one. -/
theorem isInvalidToken_of_not_data {c1 c2 : CharCode} (h1 : ¬ (c1 = charHash ∧ c2 = charHash))
    (h2 : ¬ (c1 = charStar ∧ c2 = charStar)) (h3 : ¬ (c1 = charBang ∧ c2 = charBang)) (h : tokenByte c1 c2 = none) :
    isInvalidToken c1 c2 = true := by
  rw [isInvalidToken_iff]
  refine ⟨?_, tokenByte_eq_none.1 h⟩
  rintro ⟨rfl, rfl | rfl | rfl⟩ <;> simp_all

/-- What the decoder selects for a token (R104): a command, an invalid token, or a data byte routed by the mode. -/
theorem decodeToken_cases (m : Mode) (c1 c2 : CharCode) :
    (c1 = charHash ∧ c2 = charHash ∧ decodeToken m c1 c2 = .tokCmdEncode) ∨
    (c1 = charStar ∧ c2 = charStar ∧ decodeToken m c1 c2 = .tokCmdDecode) ∨
    (c1 = charBang ∧ c2 = charBang ∧ decodeToken m c1 c2 = .tokCmdIdle) ∨
    (isInvalidToken c1 c2 = true ∧ tokenByte c1 c2 = none ∧ decodeToken m c1 c2 = .tokInvalid c1 c2) ∨
    (∃ b, isInvalidToken c1 c2 = false ∧ tokenByte c1 c2 = some b ∧
      ((m = .idle ∧ decodeToken m c1 c2 = .tokDataIdle b) ∨ (m = .encode ∧ decodeToken m c1 c2 = .tokDataEncode b) ∨
       (m = .decode ∧ decodeToken m c1 c2 = .tokDataDecode b))) := by
  unfold decodeToken
  split
  case isTrue h => exact .inl ⟨h.1, h.2, rfl⟩
  case isFalse h1 =>
  split
  case isTrue h => exact .inr (.inl ⟨h.1, h.2, rfl⟩)
  case isFalse h2 =>
  split
  case isTrue h => exact .inr (.inr (.inl ⟨h.1, h.2, rfl⟩))
  case isFalse h3 =>
  cases h : tokenByte c1 c2 with
  | none => exact .inr (.inr (.inr (.inl ⟨isInvalidToken_of_not_data h1 h2 h3 h, rfl, rfl⟩)))
  | some b =>
    refine .inr (.inr (.inr (.inr ⟨b, by simp [isInvalidToken, h], rfl, ?_⟩)))
    cases m
    · exact .inl ⟨rfl, rfl⟩
    · exact .inr (.inl ⟨rfl, rfl⟩)
    · exact .inr (.inr ⟨rfl, rfl⟩)

/-- Every operation whose condition on the state holds, for a button of the block and a time that does not run
backwards, completes. -/
theorem exec_completes {i : Instr} {s : State} (hw : i.wellFormed s.build.nButtons = true)
    (hb : s.buttons.length = s.build.nButtons) (he : enabledIn s.context i = true)
    (ht : ∀ id raw now, i = .dbSample id raw now → ∀ b, s.buttons[id]? = some b → b.lastTime ≤ now) :
    ∃ t, exec i s = .next t := by
  have hbut : ∀ {id}, id < s.build.nButtons → ∃ b, s.buttons[id]? = some b := fun h =>
    ⟨_, List.getElem?_eq_getElem (hb ▸ h)⟩
  cases i with
  | txPoll =>
    have h : s.txState = .standby ∧ s.q = [] := by simpa [enabledIn, State.context] using he
    exact ⟨_, by simp [exec, execTxPoll, h]; rfl⟩
  | txFetch =>
    have h : s.txState = .standby ∧ s.q ≠ [] := by simpa [enabledIn, State.context] using he
    rcases State.takeOldest_cases s with ⟨h0, _⟩ | ⟨p, rest, _, e⟩
    · exact absurd h0 h.2
    · exact ⟨_, by simp only [exec, execTxFetch, h.1, e]; rfl⟩
  | txSend =>
    have h : s.txState = .transmit := by simpa [enabledIn, State.context] using he
    exact ⟨_, by simp only [exec, execTxSend, h]; rfl⟩
  | txHold =>
    have h : s.txState = .transmit := by simpa [enabledIn, State.context] using he
    exact ⟨_, by simp only [exec, execTxHold, h]; rfl⟩
  | dbSample id raw now =>
    obtain ⟨b, h⟩ := hbut (by simpa [Instr.wellFormed] using hw)
    have := ht id raw now rfl b h
    simp only [exec, execDbSample, h, if_neg (Nat.not_lt.2 this)]
    split <;> exact ⟨_, rfl⟩
  | pressCount id =>
    obtain ⟨b, h⟩ := hbut (by simpa [Instr.wellFormed] using hw)
    exact ⟨_, by simp only [exec, execPressCount, h]; rfl⟩
  | pressReset id =>
    obtain ⟨b, h⟩ := hbut (by simpa [Instr.wellFormed] using hw)
    exact ⟨_, by simp only [exec, execPressReset, h]; rfl⟩
  | charIn ch =>
    cases hp : s.pendValid with
    | false => exact ⟨_, execCharIn_first hp ch⟩
    | true =>
      rw [execCharIn_completes hp]
      rcases decodeToken_cases s.mode s.pendChar ch with
        ⟨_, _, e⟩ | ⟨_, _, e⟩ | ⟨_, _, e⟩ | ⟨hi, _, e⟩ | ⟨b, _, _, ⟨hm, e⟩ | ⟨hm, e⟩ | ⟨hm, e⟩⟩ <;> rw [e]
      · exact ⟨_, rfl⟩
      · exact ⟨_, rfl⟩
      · exact ⟨_, rfl⟩
      · exact ⟨_, by simp only [exec, execTokInvalid, hi, if_true]; rfl⟩
      · exact ⟨_, by simp only [exec, execTokDataIdle, hm]; rfl⟩
      · exact ⟨_, by simp only [exec, execTokDataEncode, hm]; rfl⟩
      · exact ⟨_, by simp only [exec, execTokDataDecode, hm]; rfl⟩
  | tokInvalid c1 c2 =>
    have h : isInvalidToken c1 c2 = true := hw
    exact ⟨_, by simp only [exec, execTokInvalid, h, if_true]; rfl⟩
  | tokDataIdle b =>
    have h : s.mode = .idle := by simpa [enabledIn, State.context] using he
    exact ⟨_, by simp only [exec, execTokDataIdle, h]; rfl⟩
  | tokDataEncode b =>
    have h : s.mode = .encode := by simpa [enabledIn, State.context] using he
    exact ⟨_, by simp only [exec, execTokDataEncode, h]; rfl⟩
  | tokDataDecode b =>
    have h : s.mode = .decode := by simpa [enabledIn, State.context] using he
    exact ⟨_, by simp only [exec, execTokDataDecode, h]; rfl⟩
  | enc _ => exact ⟨_, rfl⟩
  | syn _ => exact ⟨_, rfl⟩
  | par _ => exact ⟨_, rfl⟩
  | dec _ => exact ⟨_, rfl⟩
  | cls _ => exact ⟨_, rfl⟩
  | pktEnc _ => exact ⟨_, rfl⟩
  | pktDec _ => exact ⟨_, rfl⟩
  | qPush _ => exact ⟨_, rfl⟩
  | qPop => exact ⟨_, rfl⟩
  | hexval _ => exact ⟨_, rfl⟩
  | tokCmdEncode => exact ⟨_, rfl⟩
  | tokCmdDecode => exact ⟨_, rfl⟩
  | tokCmdIdle => exact ⟨_, rfl⟩
  | toggleHalf => exact ⟨_, rfl⟩
  | reset => exact ⟨_, rfl⟩

/-- A turn of TXP selects an enabled operation (R200). -/
theorem txpTurn_enabled (s : State) (g : Bool) : enabledIn s.context (txpTurn s.txState s.q.isEmpty g) = true := by
  cases ht : s.txState <;> cases hq : s.q.isEmpty <;> cases g <;>
    simp [txpTurn, enabledIn, State.context, ht, hq]

/-- An operation that does not pulse the toggle wire is its `exec` alone. -/
theorem wireToggle_quiet {i : Instr} {s : State} (h : pulsesToggle i s = false) (o : Host.Outcome State Fault Refusal) :
    wireToggle i s o = o := by
  cases o <;> simp [wireToggle, h]

/-- What a step that gives a next state did: no agent stepped; or it took the operation `selected` names, in the state
it names, and then the half was toggled if that operation pulsed the toggle wire. -/
theorem step_next {s t : State} (h : step s = .next t) :
    selected s = .ok (none, t) ∨
    ∃ i u v, selected s = .ok (some i, u) ∧ exec i u = .next v ∧
      ((pulsesToggle i u = false ∧ t = v) ∨ (pulsesToggle i u = true ∧ t = { v with half := otherHalf v.half })) := by
  unfold step at h
  cases hs : selected s with
  | error r => rw [hs] at h; cases h
  | ok x =>
    obtain ⟨o, u⟩ := x
    rw [hs] at h
    cases o with
    | none => cases h; exact .inl rfl
    | some i =>
      simp only [runSelected] at h
      cases he : exec i u with
      | next v =>
        rw [he] at h
        refine .inr ⟨i, u, v, rfl, he, ?_⟩
        cases hp : pulsesToggle i u with
        | false => simp [wireToggle, hp] at h; exact .inl ⟨rfl, h.symm⟩
        | true => simp [wireToggle, hp, execToggleHalf] at h; exact .inr ⟨rfl, h.symm⟩
      | fault f => cases f
      | refused r => rw [he] at h; cases h

/-- A selection: a stimulus at a port, decoded; or, with nothing presented, what the free value lets TXP do. -/
theorem selected_state {s u : State} {o : Option Instr} (h : selected s = .ok (o, u)) :
    (∃ st i, s.presented = some (st, u) ∧ st.select.external = true ∧ decode s.context st = .ok i ∧ o = some i) ∨
    (s.presented = none ∧ o = (Config.unscheduledTurn s.freeIdx).map (txpTurn s.txState s.q.isEmpty) ∧
      u = s.drawFree 1) := by
  unfold selected at h
  cases hi : s.presented with
  | none => rw [hi] at h; cases h; exact .inr ⟨rfl, rfl, rfl⟩
  | some x =>
    obtain ⟨st, v⟩ := x
    rw [hi] at h
    simp only at h
    cases hx : st.select.external with
    | false => rw [hx] at h; simp at h
    | true =>
      rw [hx] at h
      simp only [if_true] at h
      cases hd : decode s.context st with
      | error e => rw [hd] at h; cases h
      | ok j => rw [hd] at h; cases h; exact .inl ⟨st, j, rfl, hx, hd, rfl⟩

/-- A step with a stimulus at a port that decodes. -/
theorem step_of_presented {s u : State} {st : Stimulus} {i : Instr} (h : s.presented = some (st, u))
    (hx : st.select.external = true) (hd : decode s.context st = .ok i) : step s = wireToggle i u (exec i u) := by
  simp only [step, selected, h, hx, hd, if_true, runSelected]

/-- When an edge pulses the `toggle` wire by a press (R230, R312 (e)). -/
theorem Edge.pressesToggle_iff (e : Edge) (s : State) :
    e.pressesToggle s = true ↔
      ∃ raw, (s.build.toggleButton, raw) ∈ e.samples ∧ s.pressRegisters s.build.toggleButton raw e.now = true := by
  simp only [Edge.pressesToggle, List.any_eq_true, pulsesToggle, Bool.and_eq_true, beq_iff_eq]
  constructor
  · rintro ⟨⟨id, raw⟩, hm, rfl, hp⟩
    exact ⟨raw, hm, hp⟩
  · rintro ⟨raw, hm, hp⟩
    exact ⟨_, hm, rfl, hp⟩

/-- An edge without samples pulses no `toggle` wire by a press. -/
@[simp] theorem Edge.pressesToggle_without_samples (e : Edge) (s : State) (h : e.samples = []) :
    e.pressesToggle s = false := by
  simp [Edge.pressesToggle, h]

end Sys2Proof.Machine
end

