-- ==== Sys2Proof/Laws/Inversion.lean ====
section
/-! SUPPORT. Everything `exec` and a step can do, said once, so that a statement over all operations is a case analysis
over `Effect` and needs no unfolding of a meaning. -/

namespace Sys2Proof.Machine

/-- The next states a completed token can lead to. -/
theorem token_next {s t : State} {c1 c2 : CharCode} (h : exec (decodeToken s.mode c1 c2) s = .next t) :
    (∃ m, c1 = c2 ∧ ((c1 = charHash ∧ m = .encode) ∨ (c1 = charStar ∧ m = .decode) ∨ (c1 = charBang ∧ m = .idle)) ∧
      isInvalidToken c1 c2 = false ∧ t = s.enterMode m) ∨
    (isInvalidToken c1 c2 = true ∧ t = s.emit .logError) ∨
    (isInvalidToken c1 c2 = false ∧
      ((s.mode = .idle ∧ t = s) ∨
       (∃ b, s.mode = .encode ∧
         t = { s with codeLo := encNibble (lowNibble b), codeHi := encNibble (highNibble b), dispValid := true }) ∨
       (∃ b, s.mode = .decode ∧
         t = { s with decNib := (decodeByte b).nibble, lastClass := classify b, lastValid := true,
                      dispValid := true }))) := by
  rcases decodeToken_cases s.mode c1 c2 with
    ⟨rfl, rfl, e⟩ | ⟨rfl, rfl, e⟩ | ⟨rfl, rfl, e⟩ | ⟨hi, _, e⟩ | ⟨b, hi, _, ⟨hm, e⟩ | ⟨hm, e⟩ | ⟨hm, e⟩⟩ <;>
    rw [e] at h
  · cases h; exact .inl ⟨_, rfl, .inl ⟨rfl, rfl⟩, by decide, rfl⟩
  · cases h; exact .inl ⟨_, rfl, .inr (.inl ⟨rfl, rfl⟩), by decide, rfl⟩
  · cases h; exact .inl ⟨_, rfl, .inr (.inr ⟨rfl, rfl⟩), by decide, rfl⟩
  · simp only [exec, execTokInvalid, hi, if_true] at h; cases h; exact .inr (.inl ⟨hi, rfl⟩)
  · simp only [exec, execTokDataIdle, hm] at h; cases h; exact .inr (.inr ⟨hi, .inl ⟨hm, rfl⟩⟩)
  · simp only [exec, execTokDataEncode, hm] at h; cases h; exact .inr (.inr ⟨hi, .inr (.inl ⟨b, hm, by rw [hm]⟩)⟩)
  · simp only [exec, execTokDataDecode, hm] at h; cases h; exact .inr (.inr ⟨hi, .inr (.inr ⟨b, hm, by rw [hm]⟩)⟩)

/-- The operations that write no register and put out exactly one result or log entry. -/
def onlyPuts : Instr → Bool
  | .enc _ | .syn _ | .par _ | .dec _ | .cls _ | .pktEnc _ | .pktDec _ => true
  | .pressCount _ | .hexval _ | .tokInvalid _ _ => true
  | .qPush _ | .qPop | .txPoll | .txFetch | .txSend | .txHold | .dbSample _ _ _ | .pressReset _ => false
  | .charIn _ | .tokCmdEncode | .tokCmdDecode | .tokCmdIdle => false
  | .tokDataIdle _ | .tokDataEncode _ | .tokDataDecode _ | .toggleHalf | .reset => false

/-- `Effect s i t`: operation `i` in state `s` leads to `t`. -/
inductive Effect (s : State) : Instr → State → Prop
  /-- An operation that only puts out a result or logs. -/
  | puts (i : Instr) (o : Output) (hs : (∀ f, o ≠ .transmit f) ∧ o ≠ .statusToggle)
      (hl : o = .logError ↔ ∃ c1 c2, i = .tokInvalid c1 c2) (hi : onlyPuts i = true) : Effect s i (s.emit o)
  | push (p : Payload) : Effect s (.qPush p) ((s.pushed p).emit (.accepted s.hasRoom))
  | pop : Effect s .qPop (s.takeOldest.2.emit (.popped s.takeOldest.1))
  /-- An operation that changes nothing. -/
  | stay (i : Instr) (hi : i = .txPoll ∨ i = .txHold ∨ ∃ b, i = .tokDataIdle b) : Effect s i s
  | fetch (p : Payload) (rest : List Payload) (ht : s.txState = .standby) (hq : s.q = p :: rest) :
      Effect s .txFetch { s with q := rest, txFrame := packetEncode p, txState := .transmit }
  | send (ht : s.txState = .transmit) :
      Effect s .txSend { s with txState := .standby, txFrame := Config.freeFrame s.freeIdx, freeIdx := s.freeIdx + 1,
                                outputs := s.outputs ++ [.transmit s.txFrame, .statusToggle] }
  | sample (id : Nat) (raw : Bool) (now : Nat) (b : PressState) (hb : s.buttons[id]? = some b) (hn : b.lastTime ≤ now) :
      Effect s (.dbSample id raw now)
        { s with buttons := s.buttons.set id (b.sampled s.build.debounceWindow (s.isAsserted id raw) now),
                 outputs := s.outputs ++ (if s.pressRegisters id raw now then [.pressEvent id] else []) }
  | zero (id : Nat) (b : PressState) (hb : s.buttons[id]? = some b) :
      Effect s (.pressReset id) (s.setButton id { b with count := 0 })
  | first (ch : CharCode) (hp : s.pendValid = false) : Effect s (.charIn ch) { s with pendChar := ch, pendValid := true }
  | second (ch : CharCode) (t : State) (hp : s.pendValid = true)
      (hx : exec (decodeToken s.mode s.pendChar ch) { s with pendValid := false } = .next t) : Effect s (.charIn ch) t
  | enter (i : Instr) (m : Mode)
      (hi : (i = .tokCmdEncode ∧ m = .encode) ∨ (i = .tokCmdDecode ∧ m = .decode) ∨ (i = .tokCmdIdle ∧ m = .idle)) :
      Effect s i (s.enterMode m)
  | encoded (b : Byte) (hm : s.mode = .encode) :
      Effect s (.tokDataEncode b)
        { s with codeLo := encNibble (lowNibble b), codeHi := encNibble (highNibble b), dispValid := true }
  | decoded (b : Byte) (hm : s.mode = .decode) :
      Effect s (.tokDataDecode b)
        { s with decNib := (decodeByte b).nibble, lastClass := classify b, lastValid := true, dispValid := true }
  | toggled : Effect s .toggleHalf { s with half := otherHalf s.half }
  | cleared : Effect s .reset s.afterReset

theorem exec_effect {i : Instr} {s t : State} (h : exec i s = .next t) : Effect s i t := by
  cases i with
  | reset => cases h; exact .cleared
  | charIn ch =>
    cases hp : s.pendValid with
    | false => rw [execCharIn_first hp] at h; cases h; exact .first ch hp
    | true => rw [execCharIn_completes hp] at h; exact .second ch t hp h
  | txPoll =>
    simp only [exec, execTxPoll] at h
    split at h
    · rename_i hc
      cases h
      rw [show s.takeOldest.2 = s by simp [State.takeOldest, hc.2]]
      exact .stay _ (.inl rfl)
    · cases h
  | txFetch =>
    simp only [exec, execTxFetch] at h
    rcases State.takeOldest_cases s with ⟨hq, e⟩ | ⟨p, rest, hq, e⟩ <;> rw [e] at h <;>
      cases ht : s.txState <;> simp [ht] at h
    subst h
    exact .fetch p rest ht hq
  | txSend =>
    cases ht : s.txState <;> simp [exec, execTxSend, ht] at h
    subst h
    simpa [State.emit, State.drawFree] using Effect.send (s := s) ht
  | txHold =>
    cases ht : s.txState <;> simp [exec, execTxHold, ht] at h
    subst h
    exact .stay _ (.inr (.inl rfl))
  | dbSample id raw now =>
    cases hb : s.buttons[id]? with
    | none => simp [exec, execDbSample, hb] at h
    | some b =>
      simp only [exec, execDbSample, hb] at h
      split at h
      · cases h
      rename_i hn
      have d := Effect.sample (s := s) id raw now b hb (by omega)
      split at h <;> rename_i hr <;> simp only [hr, if_true] at d <;> cases h
      · exact d
      · simpa [State.setButton] using d
  | pressCount id =>
    cases hb : s.buttons[id]? <;> simp [exec, execPressCount, hb] at h
    subst h
    exact .puts _ _ (by simp) (by simp) rfl
  | pressReset id =>
    cases hb : s.buttons[id]? <;> simp [exec, execPressReset, hb] at h
    subst h
    exact .zero _ _ hb
  | tokInvalid c1 c2 =>
    simp only [exec, execTokInvalid] at h
    split at h <;> cases h
    exact .puts _ _ (by simp) (by simp) rfl
  | tokDataIdle b =>
    cases hm : s.mode <;> simp [exec, execTokDataIdle, hm] at h
    subst h
    exact .stay _ (.inr (.inr ⟨_, rfl⟩))
  | tokDataEncode b =>
    cases hm : s.mode <;> simp [exec, execTokDataEncode, hm] at h
    subst h
    simpa [hm] using Effect.encoded b hm
  | tokDataDecode b =>
    cases hm : s.mode <;> simp [exec, execTokDataDecode, hm] at h
    subst h
    simpa [hm] using Effect.decoded b hm
  | enc _ => cases h; exact .puts _ _ (by simp) (by simp) rfl
  | syn _ => cases h; exact .puts _ _ (by simp) (by simp) rfl
  | par _ => cases h; exact .puts _ _ (by simp) (by simp) rfl
  | dec _ => cases h; exact .puts _ _ (by simp) (by simp) rfl
  | cls _ => cases h; exact .puts _ _ (by simp) (by simp) rfl
  | pktEnc _ => cases h; exact .puts _ _ (by simp) (by simp) rfl
  | pktDec _ => cases h; exact .puts _ _ (by simp) (by simp) rfl
  | hexval _ => cases h; exact .puts _ _ (by simp) (by simp) rfl
  | qPush p => cases h; exact .push p
  | qPop => cases h; exact .pop
  | tokCmdEncode => cases h; exact .enter _ _ (.inl ⟨rfl, rfl⟩)
  | tokCmdDecode => cases h; exact .enter _ _ (.inr (.inl ⟨rfl, rfl⟩))
  | tokCmdIdle => cases h; exact .enter _ _ (.inr (.inr ⟨rfl, rfl⟩))
  | toggleHalf => cases h; exact .toggled

theorem sentFrames_append (a b : List Output) : sentFrames (a ++ b) = sentFrames a ++ sentFrames b := by
  induction a with
  | nil => rfl
  | cons o os ih => cases o <;> simp [sentFrames, ih]

theorem sentFrames_other {o : Output} (h : ∀ f, o ≠ .transmit f) : sentFrames [o] = [] := by
  cases o <;> simp_all [sentFrames]

/-- What a completed token leaves alone, and that it puts out at most the log entry of an invalid one. -/
theorem token_keeps {s t : State} {c1 c2 : CharCode} (h : exec (decodeToken s.mode c1 c2) s = .next t) :
    (t.q = s.q ∧ t.txState = s.txState ∧ t.txFrame = s.txFrame ∧ t.build = s.build ∧ t.inputs = s.inputs ∧
      t.cycle = s.cycle ∧
      t.buttons = s.buttons ∧ t.pendValid = s.pendValid ∧ t.pendChar = s.pendChar ∧ t.freeIdx = s.freeIdx) ∧
    t.outputs = s.outputs ++ (if isInvalidToken c1 c2 then [.logError] else []) := by
  rcases token_next h with ⟨m, _, _, hi, rfl⟩ | ⟨hi, rfl⟩ | ⟨hi, ⟨_, rfl⟩ | ⟨b, _, rfl⟩ | ⟨b, _, rfl⟩⟩ <;> simp [hi]

/-- The state a step takes its operation in differs from the present one in `inputs` and `freeIdx` at most. -/
theorem selected_same {s u : State} {o : Option Instr} (h : selected s = .ok (o, u)) :
    ∃ ins n, u = { s with inputs := ins, freeIdx := n } := by
  rcases selected_state h with ⟨st, i, hp, _, _, _⟩ | ⟨_, _, rfl⟩
  · obtain ⟨rest, rfl, _⟩ := State.presented_some hp; exact ⟨rest, s.freeIdx, rfl⟩
  · exact ⟨s.inputs, s.freeIdx + 1, rfl⟩

end Sys2Proof.Machine
end

