-- ==== Sys2Proof/Laws/PerInstr.lean ====
section
/-! SUPPORT. The per-instruction family FormatWidth: the encoding of an operation puts as many bytes on the operand wires
as the format of its selecting point has (30_encoding.md R90). -/

namespace Sys2Proof.Laws.FormatWidth

open Machine

/-- The bytes of a point's operand format (R90); `none` for SAMPLE, whose time has an open width (TIME_W). -/
def formatBytes : Select → Option Nat
  | .enc => some 1
  | .syn => some 1
  | .par => some 1
  | .dec => some 1
  | .cls => some 1
  | .pktEnc => some 16
  | .pktDec => some 32
  | .push => some 16
  | .pop => some 0
  | .txp => some 1
  | .sample _ => none
  | .pressCount _ => some 0
  | .pressReset _ => some 0
  | .ch => some 1
  | .hex => some 1
  | .token => some 2
  | .toggle => some 0
  | .rst => some 0

def Statement (i : Instr) : Prop :=
  ∀ n, formatBytes (encode i).select = some n → (encode i).wires.length = n

theorem enc (value : Nibble) : Statement (.enc value) := by
  intro n h; cases h; rfl
theorem syn (coded : CodedByte) : Statement (.syn coded) := by
  intro n h; cases h; rfl
theorem par (coded : CodedByte) : Statement (.par coded) := by
  intro n h; cases h; rfl
theorem dec (coded : CodedByte) : Statement (.dec coded) := by
  intro n h; cases h; rfl
theorem cls (coded : CodedByte) : Statement (.cls coded) := by
  intro n h; cases h; rfl
theorem pktEnc (payload : Payload) : Statement (.pktEnc payload) := by
  intro n h; cases h; exact Vector.length_toList
theorem pktDec (frame : Frame) : Statement (.pktDec frame) := by
  intro n h; cases h; exact Vector.length_toList
theorem qPush (payload : Payload) : Statement (.qPush payload) := by
  intro n h; cases h; exact Vector.length_toList
theorem qPop : Statement .qPop := by
  intro n h; cases h; rfl
theorem txPoll : Statement .txPoll := by
  intro n h; cases h; rfl
theorem txFetch : Statement .txFetch := by
  intro n h; cases h; rfl
theorem txSend : Statement .txSend := by
  intro n h; cases h; rfl
theorem txHold : Statement .txHold := by
  intro n h; cases h; rfl
theorem dbSample (id : Nat) (raw : Bool) (now : Nat) : Statement (.dbSample id raw now) := by
  intro n h; cases h
theorem pressCount (id : Nat) : Statement (.pressCount id) := by
  intro n h; cases h; rfl
theorem pressReset (id : Nat) : Statement (.pressReset id) := by
  intro n h; cases h; rfl
theorem charIn (ch : CharCode) : Statement (.charIn ch) := by
  intro n h; cases h; rfl
theorem hexval (c : CharCode) : Statement (.hexval c) := by
  intro n h; cases h; rfl
theorem tokCmdEncode : Statement .tokCmdEncode := by
  intro n h; cases h; rfl
theorem tokCmdDecode : Statement .tokCmdDecode := by
  intro n h; cases h; rfl
theorem tokCmdIdle : Statement .tokCmdIdle := by
  intro n h; cases h; rfl
theorem tokInvalid (c1 : CharCode) (c2 : CharCode) : Statement (.tokInvalid c1 c2) := by
  intro n h; cases h; rfl
theorem tokDataIdle (b : Byte) : Statement (.tokDataIdle b) := by
  intro n h; cases h; rfl
theorem tokDataEncode (b : Byte) : Statement (.tokDataEncode b) := by
  intro n h; cases h; rfl
theorem tokDataDecode (b : Byte) : Statement (.tokDataDecode b) := by
  intro n h; cases h; rfl
theorem toggleHalf : Statement .toggleHalf := by
  intro n h; cases h; rfl
theorem reset : Statement .reset := by
  intro n h; cases h; rfl

end Sys2Proof.Laws.FormatWidth
end

