-- ==== Sys2Proof/Tests/Slice0.lean ====
section
/-! SUPPORT. Tests of the model: ill-formed operations refused, words written out from the formats of 30_encoding.md,
rejections by name, the vectors of 95_test_vectors.md (cited by their ids there), and, for each statement with
hypotheses, a state and operands that meet them. -/

namespace Sys2Proof.Tests

open Machine

/-- The build of the vectors of 95_test_vectors.md 2.7 and of its programs. -/
def testBuild : Params where
  debounceWindow    := 50
  assertedLevel     := [true]
  toggleButton      := 0
  cmdSameModeResets := true
  indParityOnly     := .ok

/-- The block after RESET, in the build of the vectors. -/
def fresh : State := { State.reset with build := testBuild, buttons := [PressState.reset] }

/-- A payload of 16 equal bytes. -/
def pay (b : Byte) : Payload := Vector.replicate 16 b

/-- `n` payloads queued. -/
def filled (n : Nat) : State := { fresh with q := List.replicate n (pay 0xFF#8) }

/-- Transmit, with the frame of 16 bytes 0xFF pending. -/
def sending : State := { fresh with txState := .transmit, txFrame := Vector.replicate 32 0xFF#8 }

/-- A mode, and nothing else changed. -/
def inMode (m : Mode) : State := { fresh with mode := m }

/-- Half a token waiting. -/
def waiting (m : Mode) (c : CharCode) : State := { fresh with mode := m, pendValid := true, pendChar := c }

/-- One PressState. -/
def button (b : PressState) : State := { fresh with buttons := [b] }

/-- One stimulus presented. -/
def presenting (s : State) (st : Stimulus) : State := { s with inputs := [st] }

/-- The next state, where there is one. -/
def nextOf : Host.Outcome State Fault Refusal → Option State
  | .next t => some t
  | .fault _ => none
  | .refused _ => none

/-- The refusal, where there is one. -/
def refusalOf : Host.Outcome State Fault Refusal → Option Refusal
  | .next _ => none
  | .fault _ => none
  | .refused r => some r

/-- A selection context. -/
def ctx (t : TxState) (e : Bool) (m : Mode) : Context := ⟨t, e, m, 1⟩

/-- The context after reset. -/
abbrev quiet : Context := ctx .standby true .idle

/-! ## Well-formedness refuses -/

theorem test_wf_sample_of_no_button : (Instr.dbSample 1 true 0).wellFormed 1 = false := by decide
theorem test_wf_count_of_no_button : (Instr.pressCount 3).wellFormed 3 = false := by decide
theorem test_wf_reset_of_no_button : (Instr.pressReset 4).wellFormed 2 = false := by decide
theorem test_wf_command_is_not_invalid : (Instr.tokInvalid 0x23#8 0x23#8).wellFormed 1 = false := by decide
theorem test_wf_data_is_not_invalid : (Instr.tokInvalid 0x31#8 0x44#8).wellFormed 1 = false := by decide
theorem test_wf_accepts : (Instr.tokInvalid 0x23#8 0x2A#8).wellFormed 1 = true ∧
    (Instr.dbSample 0 true 0).wellFormed 1 = true := by decide

/-! ## Decoding, every operation by a word written out from its format -/

theorem test_dec_enc : decode quiet ⟨.enc, [0b00001101#8]⟩ = .ok (.enc 0xD#4) := rfl
theorem test_dec_syn : decode quiet ⟨.syn, [0b00001101#8]⟩ = .ok (.syn 0x0D#8) := rfl
theorem test_dec_par : decode quiet ⟨.par, [0b00011100#8]⟩ = .ok (.par 0x1C#8) := rfl
theorem test_dec_dec : decode quiet ⟨.dec, [0b00011101#8]⟩ = .ok (.dec 0x1D#8) := rfl
theorem test_dec_cls : decode quiet ⟨.cls, [0b00101101#8]⟩ = .ok (.cls 0x2D#8) := rfl
theorem test_dec_pktEnc : decode quiet ⟨.pktEnc, List.replicate 16 0x20#8⟩ = .ok (.pktEnc (pay 0x20#8)) := rfl
theorem test_dec_pktDec : decode quiet ⟨.pktDec, List.replicate 32 0x1D#8⟩ =
    .ok (.pktDec (Vector.replicate 32 0x1D#8)) := rfl
theorem test_dec_qPush : decode quiet ⟨.push, List.replicate 16 0x20#8⟩ = .ok (.qPush (pay 0x20#8)) := rfl
theorem test_dec_qPop : decode quiet ⟨.pop, []⟩ = .ok .qPop := rfl
theorem test_dec_txPoll : decode (ctx .standby true .idle) ⟨.txp, [1#8]⟩ = .ok .txPoll := rfl
theorem test_dec_txFetch : decode (ctx .standby false .idle) ⟨.txp, [1#8]⟩ = .ok .txFetch := rfl
theorem test_dec_txSend : decode (ctx .transmit true .idle) ⟨.txp, [1#8]⟩ = .ok .txSend := rfl
theorem test_dec_txHold : decode (ctx .transmit false .idle) ⟨.txp, [0#8]⟩ = .ok .txHold := rfl
theorem test_dec_dbSample : decode quiet ⟨.sample 0, [1#8, 0xE8#8, 0x03#8]⟩ = .ok (.dbSample 0 true 1000) := rfl
theorem test_dec_pressCount : decode quiet ⟨.pressCount 0, []⟩ = .ok (.pressCount 0) := rfl
theorem test_dec_pressReset : decode quiet ⟨.pressReset 0, []⟩ = .ok (.pressReset 0) := rfl
theorem test_dec_charIn : decode quiet ⟨.ch, [0b00100011#8]⟩ = .ok (.charIn 0x23#8) := rfl
theorem test_dec_hexval : decode quiet ⟨.hex, [0b01000001#8]⟩ = .ok (.hexval 0x41#8) := rfl
theorem test_dec_tokCmdEncode : decode quiet ⟨.token, [0b00100011#8, 0b00100011#8]⟩ = .ok .tokCmdEncode := rfl
theorem test_dec_tokCmdDecode : decode quiet ⟨.token, [0b00101010#8, 0b00101010#8]⟩ = .ok .tokCmdDecode := rfl
theorem test_dec_tokCmdIdle : decode quiet ⟨.token, [0b00100001#8, 0b00100001#8]⟩ = .ok .tokCmdIdle := rfl
theorem test_dec_tokInvalid : decode quiet ⟨.token, [0x23#8, 0x2A#8]⟩ = .ok (.tokInvalid 0x23#8 0x2A#8) := rfl
theorem test_dec_tokDataIdle : decode (ctx .standby true .idle) ⟨.token, [0x31#8, 0x44#8]⟩ =
    .ok (.tokDataIdle 0x1D#8) := rfl
theorem test_dec_tokDataEncode : decode (ctx .standby true .encode) ⟨.token, [0x41#8, 0x35#8]⟩ =
    .ok (.tokDataEncode 0xA5#8) := rfl
theorem test_dec_tokDataDecode : decode (ctx .standby true .decode) ⟨.token, [0x66#8, 0x46#8]⟩ =
    .ok (.tokDataDecode 0xFF#8) := rfl
theorem test_dec_toggleHalf : decode quiet ⟨.toggle, []⟩ = .ok .toggleHalf := rfl
theorem test_dec_reset : decode quiet ⟨.rst, []⟩ = .ok .reset := rfl

/-! Byte i of a port lies in wires 8i+7 to 8i (R67): byte 0 is the first on the wires. -/
theorem test_dec_first_byte_low :
    ((decode quiet ⟨.push, 0x20#8 :: List.replicate 15 0#8⟩).toOption.map fun i =>
      match i with
      | .qPush p => payloadPort p
      | _ => 0#128) = some 0x20#128 := by decide

/-! ## Decoding rejects by name -/

theorem test_rej_nibble_too_wide : decode quiet ⟨.enc, [0x10#8]⟩ = .error .bitsOutsidePort := rfl
theorem test_rej_short_payload : decode quiet ⟨.push, List.replicate 15 0#8⟩ = .error .wrongWidth := rfl
theorem test_rej_long_frame : decode quiet ⟨.pktDec, List.replicate 33 0#8⟩ = .error .wrongWidth := rfl
theorem test_rej_grant_not_a_bit : decode quiet ⟨.txp, [2#8]⟩ = .error .bitsOutsidePort := rfl
theorem test_rej_no_such_button : decode quiet ⟨.sample 1, [1#8]⟩ = .error .noSuchButton := rfl
theorem test_rej_char_missing : decode quiet ⟨.ch, []⟩ = .error .wrongWidth := rfl
theorem test_rej_inside_point : refusalOf (step (presenting fresh ⟨.pop, []⟩)) = some .internalPoint := by decide
theorem test_rej_bad_wires : refusalOf (step (presenting fresh ⟨.toggle, [0#8]⟩)) = some (.badWires .wrongWidth) := by
  decide

/-! ## Words of spec/opcode_table.json, and the first step after reset -/

theorem test_word_token : decodeTableWord 16 0x2323 = some .tokCmdEncode ∧ decodeTableWord 16 0x2A2A = some .tokCmdDecode ∧
    decodeTableWord 16 0x2121 = some .tokCmdIdle ∧ decodeTableWord 16 0x232A = some (.tokInvalid 0x23#8 0x2A#8) := by
  decide
theorem test_word_data : decodeTableWord 16 0x3144 = some (.tokDataIdle 0x1D#8) := by decide
theorem test_word_char : decodeTableWord 8 0x23 = some (.charIn 0x23#8) := by decide
theorem test_word_payload : decodeTableWord 128 0 = some (.qPush (pay 0#8)) := by decide
theorem test_word_runs_encode : (nextOf (step (State.reset.withFetchWord 16 0x2323))).map (·.mode) = some .encode := by
  decide
theorem test_word_runs_push :
    (nextOf (step (State.reset.withFetchWord 128 0x20))).map (fun t => t.q.map (·[0])) = some [0x20#8] := by decide
/-- With nothing presented, whatever the free value lets TXP do right after reset, it sends nothing. -/
theorem test_reset_waits : ∃ t, step State.reset = .next t ∧ t.txState = .standby ∧ t.q = [] ∧ t.outputs = [] := by
  rw [show step State.reset = runSelected ((Config.unscheduledTurn 3).map (txpTurn .standby true)) (State.reset.drawFree 1)
    from rfl]
  cases Config.unscheduledTurn 3 with
  | none => exact ⟨_, rfl, rfl, rfl, rfl⟩
  | some g => exact ⟨_, rfl, rfl, rfl, rfl⟩
/-- A withheld grant begun anew: TX_HOLD, and what is presented next is the same again (R211, X11). -/
theorem test_hold_again :
    (nextOf (step { sending with cycle := [⟨.txp, [0#8]⟩] })).map (fun t => (t.txState, t.outputs, t.presented.map (·.1))) =
    some (.transmit, [], some ⟨.txp, [0#8]⟩) := by decide

/-! ## The vectors of 95_test_vectors.md -/

/-- 1.1 scenario 2 and 2.1. -/
theorem test_enc_1 : encNibble 1#4 = 0x1D#8 ∧ encNibble 0xA#4 = 0xA5#8 := by decide
/-- 2.2. -/
theorem test_syn : syndrome 0x0D#8 = 6#3 ∧ syndrome 0x2D#8 = 3#3 ∧ syndrome 0x80#8 = 7#3 := by decide
/-- 1.1 scenario 5. -/
theorem test_par : parityError 0x1C#8 = true ∧ parityError 0x2D#8 = false := by decide
/-- 1.1 scenarios 4 and 5. -/
theorem test_dec : decodeByte 0x0D#8 = ⟨1#4, true, 4#3⟩ ∧ decodeByte 0x1C#8 = ⟨1#4, false, 0#3⟩ := by decide
/-- 2.3, rows 0x2D and 0x9F. -/
theorem test_dec_double : decodeByte 0x2D#8 = ⟨6#4, true, 6#3⟩ ∧ decodeByte 0x9F#8 = ⟨8#4, true, 4#3⟩ := by decide
/-- 2.3, one row of each class. -/
theorem test_cls : classify 0x1D#8 = .noError ∧ classify 0x1C#8 = .parityOnly ∧
    classify 0x2D#8 = .doubleUncorrectable ∧ classify 0x0D#8 = .singleCorrected := by decide
/-- PK-2a. -/
theorem test_pktEnc : (packetEncode #v[0x00, 0x11, 0x22, 0x33, 0x44, 0x55, 0x66, 0x77,
      0x88, 0x99, 0xAA, 0xBB, 0xCC, 0xDD, 0xEE, 0xFF]).toList =
    [0x00, 0x00, 0x1D, 0x1D, 0x2B, 0x2B, 0x36, 0x36, 0x47, 0x47, 0x5A, 0x5A, 0x6C, 0x6C, 0x71, 0x71,
     0x8E, 0x8E, 0x93, 0x93, 0xA5, 0xA5, 0xB8, 0xB8, 0xC9, 0xC9, 0xD4, 0xD4, 0xE2, 0xE2, 0xFF, 0xFF] := by decide
/-- The first four bytes of PK-3, the low nibble's code first. -/
theorem test_pktEnc_low_first : (packetEncode #v[0x20, 0xDE, 0, 0, 0, 0, 0, 0, 0, 0, 0, 0, 0, 0, 0, 0]).toList.take 4 =
    [0x00, 0x2B, 0xE2, 0xD4] := by decide
/-- PK-4: 32 single errors are corrected. -/
theorem test_pktDec : (packetDecode #v[0x02, 0x2F, 0xEA, 0xC4, 0xF4, 0xE5, 0x62, 0xBA, 0xFB, 0xEA, 0xB5, 0x67, 0xBF,
      0xC7, 0x91, 0x43, 0xEA, 0x57, 0x20, 0x40, 0x80, 0x02, 0x04, 0x08, 0x10, 0x20, 0x40, 0x80, 0x02, 0x04, 0x08,
      0x10]).toList =
    [0x20, 0xDE, 0xAD, 0xBE, 0xEF, 0x4A, 0x4F, 0x49, 0x4E, 0, 0, 0, 0, 0, 0, 0] := by decide
/-- PK-5: an uncorrectable byte decodes to a value that is not to be trusted. -/
theorem test_pktDec_double : (packetDecode ((Vector.replicate 32 0#8).set 0 0x30#8 |>.set 1 0x2B#8))[0] = 0x27#8 := by decide
/-- Q-4. -/
theorem test_push_tenth : (nextOf (exec (.qPush (pay 0#8)) (filled 9))).map (fun t => (t.q.length, t.outputs)) =
    some (10, [.accepted true]) := by decide
/-- Q-3. -/
theorem test_push_full : (nextOf (exec (.qPush (pay 0#8)) (filled 10))).map (fun t => (t.q.length, t.outputs)) =
    some (10, [.accepted false]) := by decide
/-- Q-5. -/
theorem test_pop : (nextOf (exec .qPop { fresh with q := [pay 1#8, pay 2#8] })).map (fun t => (t.q, t.outputs)) =
    some ([pay 2#8], [.popped (some (pay 1#8))]) := by decide
/-- Q-7. -/
theorem test_pop_empty : (nextOf (exec .qPop fresh)).map (fun t => (t.q, t.outputs)) = some ([], [.popped none]) := by
  decide
/-- R182: the write index wraps from 9 to 0 by comparison. -/
theorem test_register_wrap : ((⟨Vector.replicate 10 (pay 0#8), 9, 9, 0⟩ : RegisterQueue).push (pay 5#8)).2.wp = 0 ∧
    ((⟨Vector.replicate 10 (pay 0#8), 9, 9, 0⟩ : RegisterQueue).push (pay 5#8)).2.pop.1 = some (pay 5#8) := by decide
/-- TX-1. -/
theorem test_txPoll : (nextOf (exec .txPoll fresh)).map (fun t => (t.txReq, t.outputs)) = some (false, []) := by decide
/-- TX-2, with the frame of PK-2. -/
theorem test_txFetch : (nextOf (exec .txFetch (filled 2))).map (fun t => (t.txState, t.q.length, t.txFrame.toList)) =
    some (.transmit, 1, List.replicate 32 0xFF#8) := by decide
/-- TX-4. -/
theorem test_txSend : (nextOf (exec .txSend sending)).map (fun t => (t.txState, t.outputs)) =
    some (.standby, [.transmit (Vector.replicate 32 0xFF#8), .statusToggle]) := by decide
/-- TX-3. -/
theorem test_txHold : (nextOf (exec .txHold sending)).map (fun t => (t.txState, t.outputs)) = some (.transmit, []) := by
  decide
/-- TX-6: the grant is ignored in Standby. -/
theorem test_grant_ignored : (nextOf (step (presenting (filled 1) ⟨.txp, [1#8]⟩))).map (·.txState) = some .transmit := by
  decide
/-- DB-4 step 1: an elapsed time equal to the window does not register. -/
theorem test_sample_at_window : (nextOf (exec (.dbSample 0 true 50) fresh)).map (fun t => (t.buttons, t.outputs)) =
    some ([⟨50, false, 0⟩], []) := by decide
/-- DB-4 step 5: one more unit does. -/
theorem test_sample_past_window :
    (nextOf (exec (.dbSample 0 true 171) (button ⟨120, false, 0⟩))).map (fun t => (t.buttons, t.outputs)) =
    some ([⟨171, true, 1⟩], [.pressEvent 0]) := by decide
/-- DB-5, PRESS_COUNT after step 6. -/
theorem test_pressCount : (nextOf (exec (.pressCount 0) (button ⟨500, true, 1⟩))).map (fun t => (t.buttons, t.outputs)) =
    some ([⟨500, true, 1⟩], [.countValue 0 1]) := by decide
/-- DB-5 step 3. -/
theorem test_pressReset : (nextOf (exec (.pressReset 0) (button ⟨200, true, 1⟩))).map (·.buttons) =
    some [⟨200, true, 0⟩] := by decide
/-- P5 step 1: the press of TOGGLE_BUTTON shows the high half in the same step. -/
theorem test_press_toggles :
    (nextOf (step (presenting fresh ⟨.sample 0, [1#8, 0xE8#8, 0x03#8]⟩))).map (fun t => (t.half, t.outputs)) =
    some (.high, [.pressEvent 0]) := by decide
/-- 2.10, the boundary characters. -/
theorem test_hexval : [0x2F#8, 0x30#8, 0x39#8, 0x3A#8, 0x40#8, 0x41#8, 0x46#8, 0x47#8, 0x60#8, 0x61#8, 0x66#8,
      0x67#8].map hexValue =
    [none, some 0, some 9, none, none, some 10, some 15, none, none, some 10, some 15, none] := by decide
/-- P1 step 1. -/
theorem test_char_waits : (nextOf (exec (.charIn 0x23#8) fresh)).map (fun t => (t.pendValid, t.pendChar, t.mode)) =
    some (true, 0x23#8, .idle) := by decide
/-- P1 step 2. -/
theorem test_char_completes : (nextOf (exec (.charIn 0x23#8) (waiting .idle 0x23#8))).map (fun t => (t.pendValid, t.mode)) =
    some (false, .encode) := by decide
/-- P6 step 2: `*1` is invalid. -/
theorem test_char_misaligned :
    (nextOf (exec (.charIn 0x31#8) (waiting .idle 0x2A#8))).map (fun t => (t.mode, t.outputs)) =
    some (.idle, [.logError]) := by decide
/-- A command entered from another mode clears the display and the half. -/
theorem test_tokCmdEncode :
    (nextOf (exec .tokCmdEncode { inMode .decode with half := .high, dispValid := true, lastValid := true })).map
      (fun t => (t.mode, t.half, t.dispValid, t.lastValid)) = some (.encode, .low, false, false) := by decide
/-- P7, the last row with CMD_SAME_MODE_RESETS = true. -/
theorem test_tokCmdDecode_same :
    (nextOf (exec .tokCmdDecode { inMode .decode with dispValid := true, lastValid := true })).map
      (fun t => (t.mode, t.dispValid, t.lastValid)) = some (.decode, false, false) := by decide
/-- P7, the last row with CMD_SAME_MODE_RESETS = false. -/
theorem test_tokCmdDecode_kept :
    (nextOf (exec .tokCmdDecode
      { inMode .decode with dispValid := true, lastValid := true, build := { testBuild with cmdSameModeResets := false } })).map
      (fun t => (t.mode, t.dispValid, t.lastValid)) = some (.decode, true, true) := by decide
/-- P1 step 11. -/
theorem test_tokCmdIdle : (nextOf (exec .tokCmdIdle { inMode .encode with half := .high, dispValid := true })).map
    (fun t => (t.mode, t.half, t.dispO)) = some (.idle, .low, none) := by decide
/-- P2 step 12. -/
theorem test_tokInvalid : (nextOf (exec (.tokInvalid 0x31#8 0x47#8) (inMode .decode))).map (·.outputs) =
    some [.logError] := by decide
/-- 2.10, `1D` in Idle. -/
theorem test_tokDataIdle : (nextOf (exec (.tokDataIdle 0x1D#8) fresh)).map (fun t => (t.dispValid, t.outputs)) =
    some (false, []) := by decide
/-- P1 step 4. -/
theorem test_tokDataEncode : (nextOf (exec (.tokDataEncode 0x1D#8) (inMode .encode))).map (fun t => (t.coded16, t.dispO)) =
    some (0x1DD4#16, some 0xD4#8) := by decide
/-- P2 step 10. -/
theorem test_tokDataDecode : (nextOf (exec (.tokDataDecode 0x2D#8) (inMode .decode))).map
    (fun t => (t.dispO, t.lastClassO, t.indOk, t.indCorr, t.indUnc)) =
    some (some 0x06#8, some 0b10#2, false, false, true) := by decide
/-- P1 step 5. -/
theorem test_toggleHalf : (nextOf (exec .toggleHalf
      { inMode .encode with codeLo := 0xD4#8, codeHi := 0x1D#8, dispValid := true })).map (·.dispO) =
    some (some 0x1D#8) := by decide
/-- 2.12. -/
theorem test_reset : (nextOf (exec .reset
      { sending with q := [pay 1#8], mode := .decode, pendValid := true, half := .high, buttons := [⟨900, true, 7⟩] })).map
      (fun t => (t.q, t.txState, t.mode, t.pendValid, t.half, t.buttons)) =
    some ([], .standby, .idle, false, .low, [⟨0, false, 0⟩]) := rfl
/-- Q-8: a push and a fetch on one edge with a full queue. -/
theorem test_edge_full : (nextOf (edge (filled 10) ⟨false, some (pay 0#8), some true, none, [], [], 0, false⟩)).map
    (fun t => (t.q.length, t.outputs)) = some (9, [.accepted false]) := by decide
/-- Q-9: a push and a poll on one edge with an empty queue. -/
theorem test_edge_empty : (nextOf (edge fresh ⟨false, some (pay 7#8), some true, none, [], [], 0, false⟩)).map
    (fun t => (t.q, t.txState)) = some ([pay 7#8], .standby) := by decide
/-- R312 (a). -/
theorem test_edge_reset : (nextOf (edge fresh ⟨true, some (pay 7#8), some true, some 0x23#8, [], [], 0, true⟩)).map
    (fun t => (t.q, t.pendValid, t.half, t.outputs)) = some ([], false, .low, []) := by decide
/-- R270: `##` with a toggle leaves `half` = 1. -/
theorem test_edge_token_toggle :
    (nextOf (edge (waiting .idle 0x23#8) ⟨false, none, none, some 0x23#8, [], [], 0, true⟩)).map
    (fun t => (t.mode, t.half)) = some (.encode, .high) := by decide
/-- R312 (e): one wire, so a registered press of TOGGLE_BUTTON with a direct pulse on the same edge inverts `half` once;
a sample that does not register leaves the pulse. -/
theorem test_edge_press_toggle :
    (nextOf (edge fresh ⟨false, none, none, none, [], [(0, true)], 1000, true⟩)).map (fun t => (t.half, t.outputs)) =
      some (.high, [.pressEvent 0]) ∧
    (nextOf (edge fresh ⟨false, none, none, none, [], [(0, true)], 50, true⟩)).map (fun t => (t.half, t.outputs)) =
      some (.high, []) := by decide
/-- R236: the reset first, then the sample, so the counter is 1. -/
theorem test_edge_reset_sample :
    (nextOf (edge (button ⟨0, false, 4⟩) ⟨false, none, none, none, [0], [(0, true)], 100, false⟩)).map (·.buttons) =
    some [⟨100, true, 1⟩] := by decide

/-! ## Witnesses: for each statement with hypotheses, a state and operands that meet them, at the boundaries -/

/-- EncComputesCodeWord: its three values, and a code word other than 0x00 and 0xFF for CodeWordsHaveDistanceFour. -/
theorem witness_code_words : encNibble 0#4 = 0x00#8 ∧ encNibble 15#4 = 0xFF#8 ∧ encNibble 1#4 = 0x1D#8 ∧
    (0x1D#8 ≠ 0x00#8 ∧ 0x1D#8 ≠ 0xFF#8) ∧ (1#4 : Nibble) ≠ 2#4 := by decide
/-- SynComputesSyndrome, ParIsOddNumberOfOnes: ENC puts out a word. -/
theorem witness_enc_puts_out : exec (.enc 1#4) fresh = .next (fresh.emit (.encCode 0x1D#8)) := rfl
/-- ParIsOddNumberOfOnes: two different bits, the first and the last. -/
theorem witness_two_bits : (0 < 8 ∧ 7 < 8 ∧ (0 : Nat) ≠ 7) := by decide
/-- DecFlipsTheNamedBit: syndrome 0, and the errors in bit 3 and bit 4, where its clauses meet. -/
theorem witness_dec : (decodeByte 0x1D#8).errpos = 0#3 ∧ (decodeByte 0x15#8).errpos = 3#3 ∧
    (decodeByte 0x0D#8).errpos = 4#3 ∧ (decodeByte 0x9D#8).errpos = 7#3 := by decide
/-- ClsIsTheFourCases: the four cases of S and P. -/
theorem witness_cls : (syndrome 0x1D#8 = 0#3 ∧ parityError 0x1D#8 = false) ∧
    (syndrome 0x1C#8 = 0#3 ∧ parityError 0x1C#8 = true) ∧ (syndrome 0x2D#8 ≠ 0#3 ∧ parityError 0x2D#8 = false) ∧
    (syndrome 0x0D#8 ≠ 0#3 ∧ parityError 0x0D#8 = true) := by decide
/-- CodeCorrectsOneDetectsTwo, CodecIsLinear, ThreeErrorsPassForOne: the first and the last bits. -/
theorem witness_bits : (1 ≤ 1 ∧ 1 ≤ 7) ∧ (1 ≤ 7 ∧ 7 ≤ 7) ∧ (0 < 1 ∧ 1 ≤ 7) ∧ (6 < 7 ∧ 7 ≤ 7) ∧ (0 < 1 ∧ 1 < 2 ∧ 2 < 8) ∧
    (5 < 6 ∧ 6 < 7 ∧ 7 < 8) := by decide
/-- PktEncEncodesEveryNibble: equal payloads have equal frames. -/
theorem witness_equal_frames : packetEncode (pay 3#8) = packetEncode (pay 3#8) := rfl
/-- FrameSurvivesOneErrorPerByte: one flipped bit in every byte. -/
theorem witness_one_error_each : ∀ k : Fin 32,
    ones ((Vector.replicate 32 0xFE#8 : Frame)[k] ^^^ (packetEncode (pay 0xFF#8))[k]) ≤ 1 := by decide
/-- PushAppendsOrIsRefused, StatusOutputsFollowTheQueue: an empty queue, nine and ten payloads. -/
theorem witness_push : fresh.q.length < 10 ∧ (filled 9).q.length < 10 ∧ 10 ≤ (filled 10).q.length ∧
    (filled 10).q.length ≤ 10 := by decide
/-- RegistersRefineTheSequence: two entries that wrap, the newer one at index 0. -/
theorem witness_registers :
    (⟨Vector.replicate 10 (pay 0xFF#8), 1, 9, 2⟩ : RegisterQueue).Inv ∧
    (⟨Vector.replicate 10 (pay 0xFF#8), 1, 9, 2⟩ : RegisterQueue).payloads = (filled 2).q := ⟨⟨by decide, by decide⟩, rfl⟩
/-- PopTakesTheOldest. -/
theorem witness_pop : fresh.q = [] ∧ (filled 2).q = pay 0xFF#8 :: [pay 0xFF#8] := by decide
/-- FramesLeaveInOrderOfAcceptance: a push that is accepted, and a turn of TXP. -/
theorem witness_stream :
    (selected (presenting (filled 9) (encode (.qPush (pay 1#8))))).toOption.map (·.1) = some (some (.qPush (pay 1#8))) ∧
    (nextOf (step (presenting (filled 9) (encode (.qPush (pay 1#8)))))).isSome = true ∧ (filled 9).q.length < 10 ∧
    (selected (presenting (filled 10) ⟨.txp, [0#8]⟩)).toOption.map (·.1) = some (some .txFetch) ∧
    (nextOf (step (presenting (filled 10) ⟨.txp, [0#8]⟩))).isSome = true := by decide
/-- PipelineTransitionTable, TxpAlwaysHasExactlyOneStep, PushAndPopOnOneEdge: each state of U4, with and without a
payload. -/
theorem witness_pipeline : (fresh.txState = .standby ∧ fresh.q = []) ∧
    ((filled 1).txState = .standby ∧ (filled 1).q = pay 0xFF#8 :: []) ∧ sending.txState = .transmit ∧
    ((filled 10).txState = .standby ∧ (filled 10).q.length = 10) := by decide
/-- TransmitOnlyUnderTheLock: a granted turn in Transmit, and a step that is no TX_SEND. -/
theorem witness_lock :
    (selected (presenting sending ⟨.txp, [1#8]⟩)).toOption.map (·.1) = some (some .txSend) ∧
    (nextOf (step (presenting sending ⟨.txp, [1#8]⟩))).isSome = true ∧
    (selected (presenting sending ⟨.txp, [0#8]⟩)).toOption.map (·.1) = some (some .txHold) ∧
    (nextOf (step (presenting sending ⟨.txp, [0#8]⟩))).isSome = true := by decide
/-- NoFairnessIsBuiltIn: what its two environments present over and over. -/
theorem witness_unfair :
    { sending with cycle := [⟨.push, (pay 1#8).toList⟩, ⟨.txp, [0#8]⟩] }.txState = .transmit ∧
    { sending with cycle := [⟨.push, (pay 1#8).toList⟩, ⟨.txp, [0#8]⟩] }.inputs = [] ∧
    { fresh with cycle := [⟨.toggle, []⟩] }.inputs = [] := ⟨rfl, rfl, rfl⟩
/-- One payload queued, and the lock granted at every turn. -/
def granted : State := { filled 1 with cycle := [⟨.txp, [1#8]⟩] }
/-- The run from `granted`: a fetch, a send, then polls. -/
def fairRun : Nat → State
  | 0 => granted
  | 1 => { granted with q := [], txFrame := packetEncode (pay 0xFF#8), txState := .transmit }
  | _ + 2 =>
    { granted with
      q := []
      txFrame := Config.freeFrame 3
      freeIdx := 4
      outputs := [.transmit (packetEncode (pay 0xFF#8)), .statusToggle] }
/-- FairRunsTransmitEverything: a run that meets its hypotheses, with a frame owed at first and sent in the end. -/
theorem witness_fair : IsRun fairRun ∧ (∀ n u, selected (fairRun n) ≠ .ok (some .reset, u)) ∧ TxpIsFair fairRun ∧
    LockIsFair fairRun ∧ (fairRun 0).frameStream = [packetEncode (pay 0xFF#8)] := by
  have turn : ∀ n, (fairRun n).txpTurns := fun n =>
    match n with
    | 0 => ⟨true, _, rfl⟩
    | 1 => ⟨true, _, rfl⟩
    | _ + 2 => ⟨true, _, rfl⟩
  refine ⟨fun n => ?_, fun n u h => ?_, fun n => ⟨n, Nat.le_refl n, turn n⟩, fun n h => ?_, rfl⟩
  · match n with
    | 0 => rfl
    | 1 => rfl
    | _ + 2 => rfl
  · match n with
    | 0 => cases h
    | 1 => cases h
    | _ + 2 => cases h
  · match n with
    | 0 => cases h
    | 1 => exact ⟨1, _, Nat.le_refl 1, rfl⟩
    | _ + 2 => cases h
/-- SampleFollowsTheDecisionTable: DB-4 step 5, a released sample, a sample exactly at the window and one while
pressed. -/
theorem witness_sample : testBuild.assertedLevel[0]? = some true ∧
    ((button ⟨120, false, 0⟩).buttons[0]? = some ⟨120, false, 0⟩ ∧ 120 ≤ 171 ∧ 171 - 120 > testBuild.debounceWindow) ∧
    ((button ⟨60, false, 0⟩).buttons[0]? = some ⟨60, false, 0⟩ ∧ 60 ≤ 110 ∧ 110 - 60 ≤ testBuild.debounceWindow) ∧
    ((button ⟨100, true, 1⟩).buttons[0]? = some ⟨100, true, 1⟩ ∧ 100 ≤ 200) ∧ false ≠ true := by decide
/-- EarlierSampleIsRefused. -/
theorem witness_earlier : (button ⟨120, false, 0⟩).buttons[0]? = some ⟨120, false, 0⟩ ∧ 119 < 120 ∧
    refusalOf (exec (.dbSample 0 true 119) (button ⟨120, false, 0⟩)) = some (.timeBackwards 0) := by decide
/-- CounterIsReadAndZeroed, ButtonsDoNotInteract, OnlyResetsLowerACounter: the operations on a button complete. -/
theorem witness_counter : (button ⟨500, true, 1⟩).buttons[0]? = some ⟨500, true, 1⟩ ∧
    (nextOf (exec (.pressCount 0) (button ⟨500, true, 1⟩))).isSome = true ∧
    (nextOf (exec (.pressReset 0) (button ⟨500, true, 1⟩))).isSome = true ∧
    (nextOf (exec (.dbSample 0 false 500) (button ⟨500, true, 1⟩))).isSome = true ∧ (1 : Nat) ≠ 0 := by decide
/-- FivePressedSamplesCountOnce: the times of DB-1. -/
theorem witness_five : fresh.buttons[0]? = some ⟨0, false, 0⟩ ∧ testBuild.assertedLevel[0]? = some true ∧
    0 ≤ 100 ∧ 100 - 0 > testBuild.debounceWindow ∧ 100 ≤ 105 ∧ 105 ≤ 110 ∧ 110 ≤ 120 ∧ 120 ≤ 140 ∧
    140 - 100 ≤ testBuild.debounceWindow := by decide
/-- PressOfToggleButtonTogglesHalf: a sample that registers and one that does not. -/
theorem witness_press : 0 < fresh.build.nButtons ∧ fresh.buttons[0]? = some ⟨0, false, 0⟩ ∧ 0 ≤ 1000 ∧
    0 = fresh.build.toggleButton ∧ fresh.pressRegisters 0 true 1000 = true ∧ fresh.pressRegisters 0 true 50 = false ∧
    (presenting fresh ⟨.sample 0, sampleBytes true 1000⟩).inputs = [⟨.sample 0, sampleBytes true 1000⟩] := by decide
/-- HexvalOfEveryCharacter: the ends of its three ranges and a code outside them. -/
theorem witness_hexval : (0x30 ≤ (0x30#8).toNat ∧ (0x39#8).toNat ≤ 0x39) ∧
    (0x41 ≤ (0x41#8).toNat ∧ (0x46#8).toNat ≤ 0x46) ∧ (0x61 ≤ (0x61#8).toNat ∧ (0x66#8).toNat ≤ 0x66) ∧
    (¬ (0x3A#8).toNat ≤ 0x39 ∧ ¬ 0x41 ≤ (0x3A#8).toNat) := by decide
/-- CharactersPairIntoTokens. -/
theorem witness_pairs : fresh.pendValid = false ∧ (waiting .decode 0x31#8).pendValid = true := by decide
/-- TokenDispatchOrder: two digits; InvalidTokenOnlyLogs: a token that is no command and has no digit. -/
theorem witness_tokens : hexValue 0x31#8 = some 1#4 ∧ hexValue 0x44#8 = some 13#4 ∧
    ¬ (0x23#8 = 0x2A#8) ∧ hexValue 0x23#8 = none ∧ hexValue 0x47#8 = none := by decide
/-- CommandTokensEnterTheirMode: an entry that changes the mode, one of the same mode with and without resets. -/
theorem witness_commands : fresh.mode ≠ .encode ∧ (inMode .decode).mode = .decode ∧
    (inMode .decode).build.cmdSameModeResets = true ∧
    { testBuild with cmdSameModeResets := false }.cmdSameModeResets = false := by decide
/-- IdleIgnoresData, DataTokensFollowTheMode, EncodeModeMirrorsThePacketCodec, WordsOfTheFormatsDecode: the three modes. -/
theorem witness_modes : (inMode .idle).mode = .idle ∧ (inMode .encode).mode = .encode ∧ (inMode .decode).mode = .decode ∧
    (nextOf (exec (.tokDataEncode 0x1D#8) (inMode .encode))).isSome = true ∧ (pay 0x1D#8)[(0 : Fin 16)] = 0x1D#8 := by
  decide
/-- ToggleInvertsHalf, DisplayShowsTheSelectedValue: both halves in Encode, and Decode, with a valid display. -/
theorem witness_display : { inMode .encode with dispValid := true }.half = .low ∧
    { inMode .encode with dispValid := true, half := .high }.half = .high ∧
    { inMode .decode with dispValid := true }.dispValid = true := by decide
/-- IndicatorsFollowTheClass. -/
theorem witness_indicators : fresh.lastValid = false ∧ { inMode .decode with lastValid := true }.lastValid = true := by
  decide
/-- OnlyInvalidTokensAreLogged, OnlyCommandsChangeTheMode, WaitingCharacterIsUndisturbed, DataPathsAreIndependent:
operations that complete, one that changes the mode and one that is neither CHAR_IN nor RESET. -/
theorem witness_exec : (nextOf (exec .tokCmdEncode fresh)).map (·.mode) = some .encode ∧ fresh.mode = .idle ∧
    (nextOf (exec .toggleHalf (waiting .idle 0x23#8))).isSome = true ∧
    (nextOf (exec (.charIn 0x23#8) (waiting .idle 0x23#8))).map (·.mode) = some .encode := by decide
/-- DataPathsAreIndependent: an operation of each path that changes it, in states that differ in the other. -/
theorem witness_paths : (filled 1).pathB = fresh.pathB ∧
    (nextOf (exec .toggleHalf fresh)).map (·.half) = some .high ∧ fresh.half = .low ∧
    (inMode .decode).pathA = fresh.pathA ∧ (nextOf (exec (.qPush (pay 1#8)) fresh)).map (·.q) = some [pay 1#8] ∧
    fresh.q = [] := ⟨rfl, rfl, rfl, rfl, rfl, rfl⟩
/-- OutputsRightAfterReset: the operation RESET gives a state. -/
theorem witness_reset : exec .reset fresh = .next fresh.afterReset ∧ 0 < fresh.afterReset.build.nButtons := ⟨rfl, by decide⟩
/-- Decode, with a result shown and a payload queued. -/
def busy : State :=
  { filled 1 with
    mode := .decode
    dispValid := true
    lastValid := true
    decNib := 6#4
    lastClass := .doubleUncorrectable
    outputs := [.logError] }

/-- EveryStepKeepsTheInvariant, BlockNeverStops, OnlyTheEnvironmentIsRefused: a state that meets the invariant. -/
theorem witness_invariant : (presenting busy ⟨.ch, [0x2A#8]⟩).Inv where
  queueWf := by decide
  buttonForEach := rfl
  pendingFrame := fun h => by cases h
  sentFrame := fun f h => by cases h
  toggles := by decide
  lastInDecode := fun _ => rfl
  dispNotIdle := fun _ => .inr rfl
  dispHasClass := fun _ => rfl
  shownCodes := fun h => by cases h
  lastOfOneByte := fun _ => ⟨0x2D#8, by decide, by decide⟩
/-- DisplayShowsTheSelectedValue, its clause in Idle: a state in Idle that meets the invariant. -/
theorem witness_idle : (filled 1).Inv ∧ (filled 1).mode = .idle where
  left :=
    { queueWf := by decide
      buttonForEach := rfl
      pendingFrame := fun h => by cases h
      sentFrame := fun f h => by cases h
      toggles := by decide
      lastInDecode := fun h => by cases h
      dispNotIdle := fun h => by cases h
      dispHasClass := fun _ => rfl
      shownCodes := fun h => by cases h
      lastOfOneByte := fun h => by cases h }
  right := rfl
/-- BlockNeverStops: what it presents is what the ports can carry. -/
theorem witness_environment : (presenting busy ⟨.ch, [0x2A#8]⟩).EnvOk := by
  intro st rest h
  cases h
  exact ⟨rfl, .charIn 0x2A#8, rfl, fun id raw now h => by cases h⟩
/-- EveryStepKeepsTheInvariant, ParametersStayAndOutputsGrow: a step that gives a next state. -/
theorem witness_step : (nextOf (step (presenting busy ⟨.ch, [0x2A#8]⟩))).isSome = true := by decide
/-- OnlyTheEnvironmentIsRefused: each of its three reasons occurs. -/
theorem witness_refusals :
    refusalOf (step (presenting busy ⟨.ch, []⟩)) = some (.badWires .wrongWidth) ∧
    refusalOf (step (presenting busy ⟨.pop, []⟩)) = some .internalPoint ∧
    refusalOf (step (presenting { busy with buttons := [⟨9, false, 0⟩] } ⟨.sample 0, [1#8, 8#8]⟩)) =
      some (.timeBackwards 0) := by decide
/-- StepRunsTheDecodedOperation: a stimulus at a port, nothing presented, and a cycle begun anew. -/
theorem witness_selection : (presenting fresh ⟨.toggle, []⟩).inputs = [⟨.toggle, []⟩] ∧ Select.toggle.external = true ∧
    decode fresh.context ⟨.toggle, []⟩ = .ok .toggleHalf ∧ fresh.inputs = [] ∧ fresh.cycle = [] ∧
    { fresh with cycle := [⟨.toggle, []⟩] }.cycle = [⟨.toggle, []⟩] := ⟨rfl, rfl, rfl, rfl, rfl, rfl⟩
/-- DecodeGivesBackEveryOperation, DecodedOperationsAreWellFormed. -/
theorem witness_encode : (Instr.dbSample 0 true 1000).wellFormed quiet.nButtons = true ∧
    enabledIn quiet (.dbSample 0 true 1000) = true ∧ enabledIn quiet .txPoll = true ∧
    enabledIn (ctx .transmit true .decode) (.tokDataDecode 0xFF#8) = true ∧
    (decode quiet ⟨.ch, [0xFF#8]⟩).toOption = some (.charIn 0xFF#8) := by decide
/-- ResetOverridesTheEdge, TokenActsBeforeToggle, ResetThenSampleOnOneEdge. -/
theorem witness_edges : (⟨true, none, none, none, [], [], 0, true⟩ : Edge).rst = true ∧
    (waiting .idle 0x23#8).pendValid = true ∧ (waiting .idle 0x23#8).mode ≠ .encode ∧
    ((button ⟨0, false, 4⟩).buttons[0]? = some ⟨0, false, 4⟩ ∧ 0 < (button ⟨0, false, 4⟩).build.nButtons ∧ 0 ≤ 100 ∧
      (button ⟨0, false, 4⟩).pressRegisters 0 true 100 = true ∧
      (button ⟨0, false, 4⟩).pressRegisters 0 true 50 = false) := by decide

end Sys2Proof.Tests
end

section
/-! The two data paths of 00_scope.md R3: which operations belong to which path, that an operation keeps the path it does
not belong to, and that what it makes of its own path depends on that path and the parameters alone. -/

namespace Sys2Proof.Machine

/-- The operations of path A: those of U3 and U4. -/
def isPathAOp : Instr → Bool
  | .qPush _ | .qPop | .txPoll | .txFetch | .txSend | .txHold => true
  | _ => false

/-- The operations of path B: those of U5 and U6. -/
def isPathBOp : Instr → Bool
  | .dbSample _ _ _ | .pressCount _ | .pressReset _ => true
  | .charIn _ | .hexval _ | .toggleHalf => true
  | .tokCmdEncode | .tokCmdDecode | .tokCmdIdle | .tokInvalid _ _ => true
  | .tokDataIdle _ | .tokDataEncode _ | .tokDataDecode _ => true
  | _ => false

theorem isPathBOp_eq_false_of_isPathAOp {i : Instr} (h : isPathAOp i = true) : isPathBOp i = false := by
  cases i with
  | qPush p => rfl
  | qPop => rfl
  | txPoll => rfl
  | txFetch => rfl
  | txSend => rfl
  | txHold => rfl
  | _ => cases h

/-! ### An operation keeps the other path -/

theorem State.pathA_eq_iff {s s' : State} :
    s'.pathA = s.pathA ↔
      s'.q = s.q ∧ s'.txState = s.txState ∧ (s.txState = .transmit → s'.txFrame = s.txFrame) := by
  cases h : s.txState <;> cases h' : s'.txState <;> simp [State.pathA, h, h']

theorem exec_keeps_pathA {i : Instr} {s t : State} (h : exec i s = .next t) (hi : isPathAOp i = false)
    (hr : i ≠ .reset) : t.pathA = s.pathA := by
  cases exec_effect h with
  | push p => cases hi
  | pop => cases hi
  | fetch p rest ht hq => cases hi
  | send ht => cases hi
  | cleared => exact absurd rfl hr
  | second ch t hp hx =>
    obtain ⟨⟨hq, ht, hf, -⟩, -⟩ := token_keeps (s := { s with pendValid := false }) hx
    exact State.pathA_eq_iff.2 ⟨hq, ht, fun _ => hf⟩
  | enter i m hm => simp [State.pathA]
  | _ => rfl

theorem exec_keeps_pathB {i : Instr} {s t : State} (h : exec i s = .next t) (hi : isPathBOp i = false)
    (hr : i ≠ .reset) : t.pathB = s.pathB := by
  cases exec_effect h with
  | puts i o hs hl hp => rfl
  | push p => simp [State.pathB]
  | pop => simp [State.pathB]
  | stay i hs => rfl
  | fetch p rest ht hq => rfl
  | send ht => rfl
  | enter i m hm => rcases hm with ⟨rfl, -⟩ | ⟨rfl, -⟩ | ⟨rfl, -⟩ <;> cases hi
  | cleared => exact absurd rfl hr
  | _ => cases hi

/-! ### An operation's own path after it is a function of that path and the parameters -/

/-- What an observation `f` of the state shows after operation `i`; `none` where `i` does not complete. -/
def shownAfter {α : Type} (f : State → α) (i : Instr) (s : State) : Option α :=
  match exec i s with
  | .next t => some (f t)
  | .fault _ => none
  | .refused _ => none

theorem shownAfter_of_next {α : Type} (f : State → α) {i : Instr} {s t : State} (h : exec i s = .next t) :
    shownAfter f i s = some (f t) := by
  simp only [shownAfter, h]

theorem exists_next_of_shownAfter {α : Type} {f : State → α} {i : Instr} {s : State} {a : α}
    (h : shownAfter f i s = some a) : ∃ t, exec i s = .next t ∧ f t = a := by
  unfold shownAfter at h
  split at h
  next t ht => exact ⟨t, ht, Option.some.inj h⟩
  next => cases h
  next => cases h

/-- `s` with everything but path B and the parameters taken from `u`. -/
def State.withRest (s u : State) : State :=
  { s with q := u.q, txState := u.txState, txFrame := u.txFrame, inputs := u.inputs, cycle := u.cycle,
           outputs := u.outputs, freeIdx := u.freeIdx }

@[simp] theorem State.withRest_mode (s u : State) : (s.withRest u).mode = s.mode := rfl
@[simp] theorem State.withRest_buttons (s u : State) : (s.withRest u).buttons = s.buttons := rfl

theorem State.eq_withRest {s s' : State} (hp : s'.build = s.build) (hb : s'.pathB = s.pathB) :
    s' = s.withRest s' := by
  cases s
  cases s'
  simp_all [State.withRest, State.pathB]

theorem State.pathB_enterMode_withRest (s u : State) (m : Mode) :
    ((s.withRest u).enterMode m).pathB = (s.enterMode m).pathB := by
  by_cases h : s.mode ≠ m ∨ s.build.cmdSameModeResets = true
  · rw [State.enterMode_effective h, State.enterMode_effective (s := s.withRest u) h]
    rfl
  · obtain ⟨hm, hc⟩ : s.mode = m ∧ s.build.cmdSameModeResets = false := by simpa using h
    rw [State.enterMode_same hm hc, State.enterMode_same (s := s.withRest u) hm hc]
    rfl

/-- A sample that is not refused writes its button, whether or not it registers a press. -/
theorem shownAfter_pathB_dbSample {s : State} {id now : Nat} {b : PressState} (raw : Bool)
    (hb : s.buttons[id]? = some b) (hn : ¬ now < b.lastTime) :
    shownAfter State.pathB (.dbSample id raw now) s =
      some (s.setButton id (b.sampled s.build.debounceWindow (s.isAsserted id raw) now)).pathB := by
  simp only [shownAfter, exec, execDbSample, hb, if_neg hn]
  by_cases hr : s.pressRegisters id raw now = true
  · rw [if_pos hr]
    rfl
  · rw [if_neg hr]

/-- Every operation of path B but CHAR_IN makes of path B the same whatever the rest of the state holds. -/
theorem shownAfter_pathB_withRest {i : Instr} (hi : isPathBOp i = true) (hc : ∀ ch, i ≠ .charIn ch) (s u : State) :
    shownAfter State.pathB i (s.withRest u) = shownAfter State.pathB i s := by
  cases i with
  | charIn ch => exact absurd rfl (hc ch)
  | dbSample id raw now =>
    cases hb : s.buttons[id]? with
    | none => simp only [shownAfter, exec, execDbSample, State.withRest_buttons, hb]
    | some b =>
      by_cases hn : now < b.lastTime
      · simp only [shownAfter, exec, execDbSample, State.withRest_buttons, hb, if_pos hn]
      · rw [shownAfter_pathB_dbSample raw hb hn, shownAfter_pathB_dbSample (s := s.withRest u) raw hb hn]
        rfl
  | pressCount id =>
    simp only [shownAfter, exec, execPressCount, State.withRest_buttons]
    cases s.buttons[id]? <;> rfl
  | pressReset id =>
    simp only [shownAfter, exec, execPressReset, State.withRest_buttons]
    cases s.buttons[id]? <;> rfl
  | hexval c => rfl
  | toggleHalf => rfl
  | tokCmdEncode => exact congrArg some (s.pathB_enterMode_withRest u .encode)
  | tokCmdDecode => exact congrArg some (s.pathB_enterMode_withRest u .decode)
  | tokCmdIdle => exact congrArg some (s.pathB_enterMode_withRest u .idle)
  | tokInvalid c1 c2 =>
    simp only [shownAfter, exec, execTokInvalid]
    cases isInvalidToken c1 c2 <;> rfl
  | tokDataIdle b =>
    simp only [shownAfter, exec, execTokDataIdle, State.withRest_mode]
    cases s.mode <;> rfl
  | tokDataEncode b =>
    simp only [shownAfter, exec, execTokDataEncode, State.withRest_mode]
    cases s.mode <;> rfl
  | tokDataDecode b =>
    simp only [shownAfter, exec, execTokDataDecode, State.withRest_mode]
    cases s.mode <;> rfl
  | _ => cases hi

/-- A token selects an operation of path B (R104), and never a further CHAR_IN. -/
theorem decodeToken_on_pathB (m : Mode) (c1 c2 : CharCode) :
    isPathBOp (decodeToken m c1 c2) = true ∧ ∀ ch, decodeToken m c1 c2 ≠ .charIn ch := by
  rcases decodeToken_cases m c1 c2 with
    ⟨-, -, e⟩ | ⟨-, -, e⟩ | ⟨-, -, e⟩ | ⟨-, -, e⟩ | ⟨b, -, -, ⟨-, e⟩ | ⟨-, e⟩ | ⟨-, e⟩⟩ <;>
    simp [e, isPathBOp]

/-- CHAR_IN is the storing of a character, or the token's operation, so it too depends on path B alone. -/
theorem shownAfter_pathB_charIn_withRest (ch : CharCode) (s u : State) :
    shownAfter State.pathB (.charIn ch) (s.withRest u) = shownAfter State.pathB (.charIn ch) s := by
  cases hp : s.pendValid with
  | false =>
    have hp' : (s.withRest u).pendValid = false := hp
    rw [shownAfter_of_next _ (execCharIn_first hp ch), shownAfter_of_next _ (execCharIn_first hp' ch)]
    rfl
  | true =>
    have hp' : (s.withRest u).pendValid = true := hp
    obtain ⟨hi, hc⟩ := decodeToken_on_pathB s.mode s.pendChar ch
    have ht := shownAfter_pathB_withRest hi hc { s with pendValid := false } u
    rw [shownAfter, shownAfter, execCharIn_completes hp, execCharIn_completes hp']
    exact ht

theorem shownAfter_pathB_congr {i : Instr} {s s' : State} (hi : isPathBOp i = true) (hp : s'.build = s.build)
    (hb : s'.pathB = s.pathB) : shownAfter State.pathB i s' = shownAfter State.pathB i s := by
  rw [State.eq_withRest hp hb]
  by_cases hc : ∃ ch, i = .charIn ch
  · obtain ⟨ch, rfl⟩ := hc
    exact shownAfter_pathB_charIn_withRest ch s s'
  · exact shownAfter_pathB_withRest hi (not_exists.1 hc) s s'

theorem State.pushed_q (s : State) (p : Payload) :
    (s.pushed p).q = if s.q.length < Config.queueDepth then s.q ++ [p] else s.q := by
  by_cases h : s.q.length < Config.queueDepth
  · rw [State.pushed_of_room h, if_pos h]
  · rw [State.pushed_of_full (Nat.le_of_not_lt h), if_neg h]

theorem State.takeOldest_q (s : State) : s.takeOldest.2.q = s.q.tail := by
  rcases State.takeOldest_cases s with ⟨hq, e⟩ | ⟨p, rest, hq, e⟩ <;> simp [e, hq]

/-- An operation of path A makes the same of path A in two states that agree on it: `tx_frame` is read in Transmit
only. -/
theorem shownAfter_pathA_congr {i : Instr} {s s' : State} (hi : isPathAOp i = true) (ha : s'.pathA = s.pathA) :
    shownAfter State.pathA i s' = shownAfter State.pathA i s := by
  obtain ⟨hq, ht, hf⟩ := State.pathA_eq_iff.1 ha
  cases i with
  | qPush p =>
    refine congrArg some (State.pathA_eq_iff.2 ⟨?_, ?_, ?_⟩)
    · simp [State.pushed_q, hq]
    · simpa using ht
    · simpa using hf
  | qPop =>
    refine congrArg some (State.pathA_eq_iff.2 ⟨?_, ?_, ?_⟩)
    · simp [State.takeOldest_q, hq]
    · simpa using ht
    · simpa using hf
  | txPoll =>
    by_cases hc : s.txState = .standby ∧ s.q = []
    · simpa [shownAfter, exec, execTxPoll, hq, ht, hc, State.takeOldest] using ha
    · simp [shownAfter, exec, execTxPoll, hq, ht, hc]
  | txFetch =>
    cases hs : s.txState with
    | transmit => simp [shownAfter, exec, execTxFetch, ht, hs]
    | standby => cases hc : s.q <;> simp [shownAfter, exec, execTxFetch, State.takeOldest, hq, ht, hs, hc, State.pathA]
  | txSend =>
    cases hs : s.txState <;> simp [shownAfter, exec, execTxSend, ht, hs, State.pathA, hq]
  | txHold =>
    cases hs : s.txState <;> simp [shownAfter, exec, execTxHold, ht, hs, ha]
  | _ => cases hi

/-- An operation of path B, in a state that agrees on path B, completes with the same path B and leaves path A alone. -/
theorem exec_on_pathB_agreement {i : Instr} {s s' t : State} (hi : isPathBOp i = true) (hA : isPathAOp i = false)
    (hr : i ≠ .reset) (h : exec i s = .next t) (hp : s'.build = s.build) (hb : s'.pathB = s.pathB) :
    ∃ t', exec i s' = .next t' ∧ t'.pathB = t.pathB ∧ t'.pathA = s'.pathA := by
  obtain ⟨t', h', e⟩ :=
    exists_next_of_shownAfter ((shownAfter_pathB_congr hi hp hb).trans (shownAfter_of_next State.pathB h))
  exact ⟨t', h', e, exec_keeps_pathA h' hA hr⟩

theorem exec_on_pathA_agreement {i : Instr} {s s' t : State} (hi : isPathAOp i = true) (hr : i ≠ .reset)
    (h : exec i s = .next t) (ha : s'.pathA = s.pathA) :
    ∃ t', exec i s' = .next t' ∧ t'.pathA = t.pathA ∧ t'.pathB = s'.pathB := by
  obtain ⟨t', h', e⟩ :=
    exists_next_of_shownAfter ((shownAfter_pathA_congr hi ha).trans (shownAfter_of_next State.pathA h))
  exact ⟨t', h', e, exec_keeps_pathB h' (isPathBOp_eq_false_of_isPathAOp hi) hr⟩

/-- Settles O55: an operation belongs to at most one path, keeps the other, and its effect on its own path is a function
of that path and the parameters. -/
theorem dataPathsAreIndependent : Obligations.DataPathsAreIndependent := by
  intro i s s' t hr h hp
  cases hA : isPathAOp i with
  | true =>
    have keepsB := exec_keeps_pathB h (isPathBOp_eq_false_of_isPathAOp hA) hr
    exact ⟨.inr keepsB, fun _ hne => absurd keepsB hne, fun ha _ => exec_on_pathA_agreement hA hr h ha⟩
  | false =>
    have keepsA := exec_keeps_pathA h hA hr
    refine ⟨.inl keepsA, fun hb hne => ?_, fun _ hne => absurd keepsA hne⟩
    cases hB : isPathBOp i with
    | true => exact exec_on_pathB_agreement hB hA hr h hp hb
    | false => exact absurd (exec_keeps_pathB h hB hr) hne

end Sys2Proof.Machine
end

section
/-! The step and the operation it runs (00_scope.md R10). -/

namespace Sys2Proof.Machine

theorem pulsesToggle_txpTurn (t : TxState) (qEmpty gnt : Bool) (s : State) :
    pulsesToggle (txpTurn t qEmpty gnt) s = false := by
  cases t with
  | standby => cases qEmpty <;> rfl
  | transmit => cases gnt <;> rfl

/-- A step with nothing presented: a turn of TXP, whose operations are off the toggle wire, or no agent's step. -/
theorem step_of_nothing_presented {s : State} (h : s.presented = none) :
    step s = match Config.unscheduledTurn s.freeIdx with
      | some g => exec (txpTurn s.txState s.q.isEmpty g) (s.drawFree 1)
      | none => .next (s.drawFree 1) := by
  simp only [step, selected, h]
  cases Config.unscheduledTurn s.freeIdx with
  | none => rfl
  | some g => exact wireToggle_quiet (pulsesToggle_txpTurn ..) _

/-- Settles O50, by the three cases of what is presented next. -/
theorem stepRunsTheDecodedOperation : Obligations.StepRunsTheDecodedOperation := by
  refine fun s => ⟨?_, ?_, ?_⟩
  · intro st rest i hi hx hd
    exact step_of_presented (State.presented_of_inputs hi) hx hd
  · intro st rest i hi hc hx hd
    exact step_of_presented (State.presented_of_cycle hi hc) hx hd
  · intro hi hc
    exact step_of_nothing_presented (State.presented_none.2 ⟨hi, hc⟩)

end Sys2Proof.Machine
end

section
/-! What an operation may do to the registers and the trace of 10_state.md: who writes `mode` and the waiting character,
what never changes, and the outputs right after reset. -/

namespace Sys2Proof.Machine

/-! ### The mode (R29, R315) -/

/-- A completed token leaves the mode as it was, or it is a command and the mode is the command's own. -/
theorem token_mode {s t : State} {c1 c2 : CharCode} (h : exec (decodeToken s.mode c1 c2) s = .next t) :
    t.mode = s.mode ∨ c1 = c2 ∧
      ((c2 = charHash ∧ t.mode = .encode) ∨ (c2 = charStar ∧ t.mode = .decode) ∨ (c2 = charBang ∧ t.mode = .idle)) := by
  rcases token_next h with ⟨m, rfl, hm, -, rfl⟩ | ⟨-, rfl⟩ | ⟨-, ⟨-, rfl⟩ | ⟨b, -, rfl⟩ | ⟨b, -, rfl⟩⟩
  · rw [State.enterMode_mode]
    exact .inr ⟨rfl, hm⟩
  · exact .inl rfl
  · exact .inl rfl
  · exact .inl rfl
  · exact .inl rfl

/-- Settles O42: of all effects only the entry of a mode, RESET and a completed token write `mode`. -/
theorem onlyCommandsChangeTheMode : Obligations.OnlyCommandsChangeTheMode := by
  intro i s t h hne
  cases exec_effect h with
  | enter i m hi =>
    rw [State.enterMode_mode]
    rcases hi with hi | hi | hi
    · exact .inl hi
    · exact .inr (.inl hi)
    · exact .inr (.inr (.inl hi))
  | cleared => exact .inr (.inr (.inr (.inl ⟨rfl, rfl⟩)))
  | second ch t hp hx =>
    obtain ⟨hc, hm⟩ := (token_mode (s := { s with pendValid := false }) hx).resolve_left hne
    exact .inr (.inr (.inr (.inr ⟨ch, rfl, hp, hc, hm⟩)))
  | push p => exact absurd (State.pushed_mode s p) hne
  | pop => exact absurd (State.takeOldest_mode s) hne
  | _ => exact absurd rfl hne

/-! ### The waiting character (R30) -/

/-- Settles O43: of all effects only those of CHAR_IN and RESET write the waiting character or its flag. -/
theorem waitingCharacterIsUndisturbed : Obligations.WaitingCharacterIsUndisturbed := by
  intro i s t h hr hc
  cases exec_effect h with
  | cleared => exact absurd rfl hr
  | first ch hp => exact absurd rfl (hc ch)
  | second ch t hp hx => exact absurd rfl (hc ch)
  | push p => exact ⟨State.pushed_pendValid s p, State.pushed_pendChar s p⟩
  | pop => exact ⟨State.takeOldest_pendValid s, State.takeOldest_pendChar s⟩
  | enter i m hi => exact ⟨State.enterMode_pendValid s m, State.enterMode_pendChar s m⟩
  | _ => exact ⟨rfl, rfl⟩

/-! ### The parameters and the trace (R22, 93 X15) -/

theorem exec_keeps_build {i : Instr} {s t : State} (h : exec i s = .next t) : t.build = s.build := by
  cases exec_effect h with
  | push p => exact State.pushed_build s p
  | pop => exact State.takeOldest_build s
  | enter i m hi => exact State.enterMode_build s m
  | second ch t hp hx =>
    obtain ⟨⟨-, -, -, hb, -⟩, -⟩ := token_keeps (s := { s with pendValid := false }) hx
    exact hb
  | _ => rfl

/-- The longest list of outputs is TX_SEND's: the frame and the status toggle. -/
theorem exec_appends_outputs {i : Instr} {s t : State} (h : exec i s = .next t) :
    ∃ os, t.outputs = s.outputs ++ os ∧ os.length ≤ 2 := by
  cases exec_effect h with
  | puts i o hs hl hi => exact ⟨[o], rfl, by simp⟩
  | push p => exact ⟨[.accepted s.hasRoom], by simp, by simp⟩
  | pop => exact ⟨[.popped s.takeOldest.1], by simp, by simp⟩
  | send ht => exact ⟨[.transmit s.txFrame, .statusToggle], rfl, by simp⟩
  | sample id raw now b hb hn => exact ⟨_, rfl, by split <;> simp⟩
  | second ch t hp hx =>
    obtain ⟨-, ho⟩ := token_keeps (s := { s with pendValid := false }) hx
    exact ⟨_, ho, by split <;> simp⟩
  | enter i m hi => exact ⟨[], by simp, by simp⟩
  | _ => exact ⟨[], (List.append_nil _).symm, by simp⟩

/-- Settles O54: the selection and the toggle wire write neither the parameters nor the outputs, so a step does to them
what its operation does. -/
theorem parametersStayAndOutputsGrow : Obligations.ParametersStayAndOutputsGrow := by
  intro s t h
  rcases step_next h with hs | ⟨i, u, v, hs, hx, ht⟩
  · obtain ⟨ins, n, rfl⟩ := selected_same hs
    exact ⟨rfl, [], (List.append_nil _).symm, by simp⟩
  · obtain ⟨ins, n, rfl⟩ := selected_same hs
    have operation := And.intro (exec_keeps_build hx) (exec_appends_outputs hx)
    rcases ht with ⟨-, rfl⟩ | ⟨-, rfl⟩
    · exact operation
    · exact operation

/-! ### Right after reset (R330, R332) -/

/-- The registers R330 gives a value hold it; every button of the build has its PressState. -/
structure State.HoldsResetValues (s : State) : Prop where
  q : s.q = []
  txState : s.txState = .standby
  mode : s.mode = .idle
  half : s.half = .low
  dispValid : s.dispValid = false
  lastValid : s.lastValid = false
  buttons : s.buttons = s.build.assertedLevel.map fun _ => PressState.reset

theorem State.reset_holdsResetValues : State.reset.HoldsResetValues := ⟨rfl, rfl, rfl, rfl, rfl, rfl, rfl⟩

theorem State.afterReset_holdsResetValues (s : State) : s.afterReset.HoldsResetValues :=
  ⟨rfl, rfl, rfl, rfl, rfl, rfl, rfl⟩

theorem exec_reset_eq {s t : State} (h : exec .reset s = .next t) : t = s.afterReset := by
  cases h
  rfl

namespace State.HoldsResetValues

variable {s : State} (h : s.HoldsResetValues)
include h

theorem queue_ports : s.empty = true ∧ s.full = false ∧ s.countQ = 0#4 ∧ s.pushReady = true := by
  simp [State.empty, State.full, State.countQ, State.pushReady, h.q]

theorem txReq_eq : s.txReq = false := by
  simp [State.txReq, h.txState]

theorem mode_and_half_ports : s.modeO = 0#2 ∧ s.halfO = 0#1 := by
  simp [State.modeO, State.halfO, modeCode, halfCode, h.mode, h.half]

theorem display_ports : s.dispValidO = false ∧ s.dispO = none := by
  simp [State.dispValidO, State.dispO, h.mode, h.dispValid]

theorem indicator_ports : s.indOk = false ∧ s.indCorr = false ∧ s.indUnc = false ∧ s.lastValidO = false := by
  simp [State.indOk, State.indCorr, State.indUnc, State.lastValidO, h.lastValid]

theorem button_ports {id : Nat} (hid : id < s.build.nButtons) :
    s.pressedO id = some false ∧ s.countO id = some 0 := by
  have hb : s.buttons[id]? = some PressState.reset := by
    rw [h.buttons, List.getElem?_map, List.getElem?_eq_getElem hid]
    rfl
  simp [State.pressedO, State.countO, hb, PressState.reset]

end State.HoldsResetValues

/-- Settles O45: the outputs are functions of the registers R330 gives a value, which `State.reset` and RESET both
write. -/
theorem outputsRightAfterReset : Obligations.OutputsRightAfterReset := by
  intro t ht
  have h : t.HoldsResetValues := by
    rcases ht with rfl | ⟨s, hs⟩
    · exact State.reset_holdsResetValues
    · exact exec_reset_eq hs ▸ s.afterReset_holdsResetValues
  obtain ⟨hempty, hfull, hcount, hready⟩ := h.queue_ports
  obtain ⟨hmode, hhalf⟩ := h.mode_and_half_ports
  obtain ⟨hvalid, hdisp⟩ := h.display_ports
  obtain ⟨hok, hcorr, hunc, hlast⟩ := h.indicator_ports
  exact ⟨hempty, hfull, hcount, hready, h.txReq_eq, hmode, hhalf, hvalid, hdisp, hok, hcorr, hunc, hlast,
    fun _ hid => h.button_ports hid, fun s hs => exec_reset_eq hs ▸ s.afterReset_outputs⟩

end Sys2Proof.Machine
end

section
/-! The decoder and the encoder (30_encoding.md R102 to R107): what each selecting point decodes to, and that decoding and
encoding agree. -/

namespace Sys2Proof.Machine

/-! ### Tokens (R104, R252) -/

/-- The operation of a data byte in mode `m`. -/
def dataOperation : Mode → Byte → Instr
  | .idle, b => .tokDataIdle b
  | .encode, b => .tokDataEncode b
  | .decode, b => .tokDataDecode b

theorem tokenByte_command :
    tokenByte charHash charHash = none ∧ tokenByte charStar charStar = none ∧ tokenByte charBang charBang = none := by
  decide

theorem isInvalidToken_command :
    isInvalidToken charHash charHash = false ∧ isInvalidToken charStar charStar = false ∧
      isInvalidToken charBang charBang = false := by
  decide

/-- A command's operation is selected by its own pair of characters alone. -/
theorem decodeToken_eq_command_iff {c : CharCode} {i : Instr} (m : Mode) (c1 c2 : CharCode)
    (hi : (c = charHash ∧ i = .tokCmdEncode) ∨ (c = charStar ∧ i = .tokCmdDecode) ∨ (c = charBang ∧ i = .tokCmdIdle)) :
    decodeToken m c1 c2 = i ↔ c1 = c ∧ c2 = c := by
  constructor
  · rintro rfl
    rcases decodeToken_cases m c1 c2 with
      ⟨rfl, rfl, e⟩ | ⟨rfl, rfl, e⟩ | ⟨rfl, rfl, e⟩ | ⟨-, -, e⟩ | ⟨b, -, -, ⟨-, e⟩ | ⟨-, e⟩ | ⟨-, e⟩⟩
    · simpa [e, eq_comm] using hi
    · simpa [e, eq_comm] using hi
    · simpa [e, eq_comm] using hi
    all_goals simp [e] at hi
  · rintro ⟨rfl, rfl⟩
    rcases hi with ⟨rfl, rfl⟩ | ⟨rfl, rfl⟩ | ⟨rfl, rfl⟩ <;> rfl

theorem decodeToken_eq_tokInvalid_iff (m : Mode) (c1 c2 : CharCode) :
    decodeToken m c1 c2 = .tokInvalid c1 c2 ↔ isInvalidToken c1 c2 = true := by
  rcases decodeToken_cases m c1 c2 with
    ⟨rfl, rfl, e⟩ | ⟨rfl, rfl, e⟩ | ⟨rfl, rfl, e⟩ | ⟨hi, -, e⟩ | ⟨b, hi, -, ⟨-, e⟩ | ⟨-, e⟩ | ⟨-, e⟩⟩
  · simp [e, isInvalidToken_command]
  · simp [e, isInvalidToken_command]
  · simp [e, isInvalidToken_command]
  · simp [e, hi]
  · simp [e, hi]
  · simp [e, hi]
  · simp [e, hi]

theorem decodeToken_of_tokenByte {c1 c2 : CharCode} {b : Byte} (m : Mode) (h : tokenByte c1 c2 = some b) :
    decodeToken m c1 c2 = dataOperation m b := by
  rcases decodeToken_cases m c1 c2 with
    ⟨rfl, rfl, -⟩ | ⟨rfl, rfl, -⟩ | ⟨rfl, rfl, -⟩ | ⟨-, hn, -⟩ | ⟨b', -, hb, ⟨rfl, e⟩ | ⟨rfl, e⟩ | ⟨rfl, e⟩⟩
  · simp [tokenByte_command] at h
  · simp [tokenByte_command] at h
  · simp [tokenByte_command] at h
  · simp [hn] at h
  all_goals
    obtain rfl := Option.some.inj (hb.symm.trans h)
    exact e

/-- Settles O32: commands and invalid tokens by the two equivalences, two digits by the byte they denote. -/
theorem tokenDispatchOrder : Obligations.TokenDispatchOrder := by
  intro m c1 c2
  refine ⟨decodeToken_eq_command_iff m c1 c2 (.inl ⟨rfl, rfl⟩),
    decodeToken_eq_command_iff m c1 c2 (.inr (.inl ⟨rfl, rfl⟩)),
    decodeToken_eq_command_iff m c1 c2 (.inr (.inr ⟨rfl, rfl⟩)),
    (decodeToken_eq_tokInvalid_iff m c1 c2).trans (isInvalidToken_iff c1 c2), fun hi lo h1 h2 => ?_⟩
  refine ⟨joinNibbles hi lo, joinNibbles_toNat hi lo, ?_⟩
  rw [decodeToken_of_tokenByte m (tokenByte_some h1 h2)]
  cases m <;> rfl

/-! ### Selecting points -/

theorem decode_token (c : Context) (c1 c2 : CharCode) :
    decode c ⟨.token, [c1, c2]⟩ = .ok (decodeToken c.mode c1 c2) := rfl

theorem decode_dataToken (c : Context) (b : Byte) :
    decode c ⟨.token, dataToken b⟩ = .ok (dataOperation c.mode b) := by
  rw [dataToken, decode_token, decodeToken_of_tokenByte c.mode (tokenByte_digits b)]

theorem decode_txp (c : Context) (gnt : Bool) :
    decode c ⟨.txp, [byteOfBit gnt]⟩ = .ok (txpTurn c.txState c.qEmpty gnt) :=
  congrArg (Except.map _) (readBit_wire gnt)

/-- Settles O53: each word by evaluation of the decoder, after the lemma of its point where the state decides. -/
theorem wordsOfTheFormatsDecode : Obligations.WordsOfTheFormatsDecode := by
  refine fun c => ⟨rfl, rfl, rfl, rfl, rfl, rfl, fun hm => ?_, fun hn => ?_, fun ht => ?_⟩
  · have digits : tokenByte 0x31#8 0x64#8 = some 0x1D#8 := rfl
    rw [decode_token, decodeToken_of_tokenByte c.mode digits, hm]
    rfl
  · exact checkButton_of_lt hn _
  · exact (decode_txp c true).trans (by rw [ht]; rfl)

/-! ### Decoding an encoding -/

/-- Settles O51: the wires of each point read back as what the encoder put on them, and the state that enables an
operation of TXP or a data token is the one that selects it. -/
theorem decodeGivesBackEveryOperation : Obligations.DecodeGivesBackEveryOperation := by
  intro c i hw he
  cases i with
  | enc value => exact congrArg (Except.map _) (readNibble_wire value)
  | pktEnc payload => exact congrArg (Except.map _) (readBytes_toList payload)
  | pktDec frame => exact congrArg (Except.map _) (readBytes_toList frame)
  | qPush payload => exact congrArg (Except.map _) (readBytes_toList payload)
  | txPoll =>
    obtain ⟨ht, hq⟩ : c.txState = .standby ∧ c.qEmpty = true := by simpa [enabledIn] using he
    rw [encode, decode_txp, ht, hq]
    rfl
  | txFetch =>
    obtain ⟨ht, hq⟩ : c.txState = .standby ∧ c.qEmpty = false := by simpa [enabledIn] using he
    rw [encode, decode_txp, ht, hq]
    rfl
  | txSend =>
    have ht : c.txState = .transmit := by simpa [enabledIn] using he
    rw [encode, decode_txp, ht]
    rfl
  | txHold =>
    have ht : c.txState = .transmit := by simpa [enabledIn] using he
    rw [encode, decode_txp, ht]
    rfl
  | dbSample id raw now =>
    exact (checkButton_of_lt (of_decide_eq_true hw) _).trans (congrArg (Except.map _) (readSample_wires raw now))
  | pressCount id => exact checkButton_of_lt (of_decide_eq_true hw) _
  | pressReset id => exact checkButton_of_lt (of_decide_eq_true hw) _
  | tokInvalid c1 c2 => rw [encode, decode_token, (decodeToken_eq_tokInvalid_iff c.mode c1 c2).2 hw]
  | tokDataIdle b =>
    have hm : c.mode = .idle := by simpa [enabledIn] using he
    rw [encode, decode_dataToken, hm]
    rfl
  | tokDataEncode b =>
    have hm : c.mode = .encode := by simpa [enabledIn] using he
    rw [encode, decode_dataToken, hm]
    rfl
  | tokDataDecode b =>
    have hm : c.mode = .decode := by simpa [enabledIn] using he
    rw [encode, decode_dataToken, hm]
    rfl
  | _ => rfl

/-! ### What the decoder gives -/

/-- Operation `i` may be selected at point `p` in the selection state `c`. -/
structure SelectableAt (c : Context) (p : Select) (i : Instr) : Prop where
  wellFormed : i.wellFormed c.nButtons = true
  enabled : enabledIn c i = true
  point : (encode i).select = p

theorem txpTurn_selectableAt (c : Context) (gnt : Bool) : SelectableAt c .txp (txpTurn c.txState c.qEmpty gnt) := by
  cases ht : c.txState with
  | standby => cases hq : c.qEmpty <;> exact ⟨rfl, by simp [txpTurn, enabledIn, ht, hq], rfl⟩
  | transmit => cases gnt <;> exact ⟨rfl, by simp [txpTurn, enabledIn, ht], rfl⟩

theorem decodeToken_selectableAt (c : Context) (c1 c2 : CharCode) :
    SelectableAt c .token (decodeToken c.mode c1 c2) := by
  rcases decodeToken_cases c.mode c1 c2 with
    ⟨-, -, e⟩ | ⟨-, -, e⟩ | ⟨-, -, e⟩ | ⟨hi, -, e⟩ | ⟨b, -, -, ⟨hm, e⟩ | ⟨hm, e⟩ | ⟨hm, e⟩⟩ <;> rw [e]
  · exact ⟨rfl, rfl, rfl⟩
  · exact ⟨rfl, rfl, rfl⟩
  · exact ⟨rfl, rfl, rfl⟩
  · exact ⟨hi, rfl, rfl⟩
  · exact ⟨rfl, beq_iff_eq.2 hm, rfl⟩
  · exact ⟨rfl, beq_iff_eq.2 hm, rfl⟩
  · exact ⟨rfl, beq_iff_eq.2 hm, rfl⟩

theorem checkButton_eq_ok {α : Type} {n id : Nat} {r : Except WireError α} {x : α} (h : checkButton n id r = .ok x) :
    id < n ∧ r = .ok x := by
  by_cases hid : id < n
  · exact ⟨hid, checkButton_of_lt hid r ▸ h⟩
  · simp [checkButton, hid] at h

theorem SelectableAt.of_map {α : Type} {c : Context} {p : Select} {f : α → Instr} {i : Instr} {r : Except WireError α}
    (h : r.map f = .ok i) (hf : ∀ x, SelectableAt c p (f x)) : SelectableAt c p i := by
  cases r with
  | error e => cases h
  | ok x =>
    cases h
    exact hf x

theorem SelectableAt.of_readNone {c : Context} {p : Select} {i j : Instr} {ws : List Byte}
    (h : readNone j ws = .ok i) (hj : SelectableAt c p j) : SelectableAt c p i := by
  cases ws with
  | nil =>
    cases h
    exact hj
  | cons b bs => cases h

theorem decode_selectableAt {c : Context} {st : Stimulus} {i : Instr} (h : decode c st = .ok i) :
    SelectableAt c st.select i := by
  obtain ⟨p, ws⟩ := st
  cases p with
  | txp => exact .of_map h (txpTurn_selectableAt c)
  | token => exact .of_map h fun x => decodeToken_selectableAt c x.1 x.2
  | sample id =>
    obtain ⟨hid, hr⟩ := checkButton_eq_ok h
    exact .of_map hr fun _ => ⟨decide_eq_true hid, rfl, rfl⟩
  | pressCount id =>
    obtain ⟨hid, hr⟩ := checkButton_eq_ok h
    exact .of_readNone hr ⟨decide_eq_true hid, rfl, rfl⟩
  | pressReset id =>
    obtain ⟨hid, hr⟩ := checkButton_eq_ok h
    exact .of_readNone hr ⟨decide_eq_true hid, rfl, rfl⟩
  | pop => exact .of_readNone h ⟨rfl, rfl, rfl⟩
  | toggle => exact .of_readNone h ⟨rfl, rfl, rfl⟩
  | rst => exact .of_readNone h ⟨rfl, rfl, rfl⟩
  | _ => exact .of_map h fun _ => ⟨rfl, rfl, rfl⟩

/-- Settles O52: each point reads its wires into operations of its own, enabled by the state that selects them. -/
theorem decodedOperationsAreWellFormed : Obligations.DecodedOperationsAreWellFormed := by
  intro c st i h
  obtain ⟨wellFormed, enabled, point⟩ := decode_selectableAt h
  exact ⟨wellFormed, enabled, point⟩

end Sys2Proof.Machine
end

section
/-! U1 HammingCodec (40_hamming_codec.md). The code is linear over exclusive or (R141), so what the decoder says of a code
word with an error pattern is read off the pattern: each guarantee of R139, and each limit of R140, is a fact about flipped
bits. -/

namespace Sys2Proof.Machine

/-! ### What the five operations put out -/

theorem State.emit_inj (s : State) {o o' : Output} : s.emit o = s.emit o' ↔ o = o' :=
  ⟨fun h => by simpa using congrArg State.outputs h, congrArg s.emit⟩

@[simp] theorem exec_enc (v : Nibble) (s : State) : exec (.enc v) s = .next (s.emit (.encCode (encNibble v))) := rfl
@[simp] theorem exec_syn (c : CodedByte) (s : State) : exec (.syn c) s = .next (s.emit (.decSyn (syndrome c))) := rfl
@[simp] theorem exec_par (c : CodedByte) (s : State) : exec (.par c) s = .next (s.emit (.decPerr (parityError c))) := rfl
@[simp] theorem exec_dec (c : CodedByte) (s : State) : exec (.dec c) s = .next (s.emit (.decResult (decodeByte c))) := rfl
@[simp] theorem exec_cls (c : CodedByte) (s : State) : exec (.cls c) s = .next (s.emit (.decClass (classify c))) := rfl

theorem eq_encNibble_of_exec_enc {v : Nibble} {w : CodedByte} {s : State}
    (h : exec (.enc v) s = .next (s.emit (.encCode w))) : w = encNibble v := by
  simpa [State.emit_inj, eq_comm] using h

/-! ### Linearity (R132, R133, R141) -/

/-- Whether a count is odd is linear over exclusive or. -/
theorem odd_countP_xor {α : Type} (p q : α → Bool) (l : List α) :
    decide ((l.countP fun a => p a ^^ q a) % 2 = 1) =
      (decide (l.countP p % 2 = 1) ^^ decide (l.countP q % 2 = 1)) := by
  induction l with
  | nil => rfl
  | cons a l ih =>
    simp only [List.countP_cons]
    cases p a <;> cases q a <;> grind

theorem countP_xor_le {α : Type} (p q : α → Bool) (l : List α) :
    (l.countP fun a => p a ^^ q a) ≤ l.countP p + l.countP q := by
  induction l with
  | nil => exact Nat.zero_le _
  | cons a l ih =>
    simp only [List.countP_cons]
    cases p a <;> cases q a <;> grind

theorem ones_xor_le (a b : Byte) : ones (a ^^^ b) ≤ ones a + ones b := by
  simp only [ones, BitVec.getLsbD_xor]
  exact countP_xor_le _ _ _

theorem parityError_eq_odd_ones (v : Byte) : parityError v = decide (ones v % 2 = 1) := by
  revert v; decide

theorem parityError_xor (a b : Byte) : parityError (a ^^^ b) = (parityError a ^^ parityError b) := by
  simp only [parityError_eq_odd_ones, ones, BitVec.getLsbD_xor]
  exact odd_countP_xor _ _ _

/-- Each bit of the syndrome is the parity of the bits its mask selects. -/
theorem syndrome_getElem (v : Byte) :
    (syndrome v)[0] = parityError (v &&& 0xE2#8) ∧ (syndrome v)[1] = parityError (v &&& 0xD4#8) ∧
      (syndrome v)[2] = parityError (v &&& 0xB8#8) := by
  revert v; decide

theorem syndrome_xor (a b : Byte) : syndrome (a ^^^ b) = syndrome a ^^^ syndrome b := by
  have masked (m : Byte) : parityError ((a ^^^ b) &&& m) = (parityError (a &&& m) ^^ parityError (b &&& m)) := by
    rw [← parityError_xor]
    congr 1
    ext i
    simp [Bool.and_xor_distrib_right]
  obtain ⟨h0, h1, h2⟩ := syndrome_getElem (a ^^^ b)
  obtain ⟨a0, a1, a2⟩ := syndrome_getElem a
  obtain ⟨b0, b1, b2⟩ := syndrome_getElem b
  apply BitVec.eq_of_getElem_eq
  intro i hi
  rw [BitVec.getElem_xor]
  match i, hi with
  | 0, _ => rw [h0, a0, b0, masked]
  | 1, _ => rw [h1, a1, b1, masked]
  | 2, _ => rw [h2, a2, b2, masked]

theorem encNibble_xor (a b : Nibble) : encNibble (a ^^^ b) = encNibble a ^^^ encNibble b := by
  revert a b; decide

theorem highNibble_xor (a b : Byte) : highNibble (a ^^^ b) = highNibble a ^^^ highNibble b := by
  simp [highNibble, BitVec.extractLsb'_xor]

theorem xor_xor_of_eq_xor {c w e : Byte} (h : c = w ^^^ e) (f : Byte) : c ^^^ (w ^^^ f) = e ^^^ f := by
  rw [h, BitVec.xor_comm w e, BitVec.xor_assoc, ← BitVec.xor_assoc w w, BitVec.xor_self, BitVec.zero_xor]

/-! ### Code words (R130, R131) -/

@[simp] theorem syndrome_encNibble (v : Nibble) : syndrome (encNibble v) = 0#3 := by
  revert v; decide

@[simp] theorem parityError_encNibble (v : Nibble) : parityError (encNibble v) = false := by
  revert v; decide

@[simp] theorem highNibble_encNibble (v : Nibble) : highNibble (encNibble v) = v := by
  revert v; decide

theorem four_le_ones_encNibble {v : Nibble} (h : v ≠ 0#4) : 4 ≤ ones (encNibble v) := by
  revert v; decide

/-- The code words in the order of their values. -/
def codeWords : Vector CodedByte 16 := Vector.ofFn fun i => encNibble (BitVec.ofFin i)

theorem codeWords_getElem (v : Nibble) : codeWords[v.toFin] = encNibble v := by
  simp [codeWords]

/-- The code words are the bytes without syndrome and without parity error. -/
theorem eq_encNibble_of_clean {c : Byte} (hS : syndrome c = 0#3) (hP : parityError c = false) :
    c = encNibble (highNibble c) := by
  revert c; decide

/-! ### Flipped bits (R134) -/

theorem getLsbD_flip {i : Nat} (hi : i < 8) (k : Nat) : (flip k).getLsbD i = decide (i = k) := by
  by_cases hik : i < k
  · simp [flip, hik, hik.ne]
  · have zero_iff : i - k = 0 ↔ i = k := by omega
    simp [flip, hik, hi, zero_iff]

theorem ones_flip {k : Nat} (hk : k < 8) : ones (flip k) = 1 := by
  revert k; decide

theorem parityError_flip {k : Nat} (hk : k < 8) : parityError (flip k) = true := by
  revert k; decide

theorem errorPosition_syndrome_flip {k : Nat} (hk : k < 8) : errorPosition (syndrome (flip k)) = BitVec.ofNat 3 k := by
  revert k; decide

theorem syndrome_flip_eq_zero_iff {k : Nat} (hk : k < 8) : syndrome (flip k) = 0#3 ↔ k = 0 := by
  revert k; decide

theorem highNibble_flip {k : Nat} (hk : k < 8) : highNibble (flip k) = if k ≤ 3 then 0#4 else 1#4 <<< (k - 4) := by
  revert k; decide

@[simp] theorem syndrome_flip_errorPosition (S : Syndrome) : syndrome (flip (errorPosition S).toNat) = S := by
  revert S; decide

theorem errorPosition_eq_zero_iff (S : Syndrome) : (errorPosition S).toNat = 0 ↔ S = 0#3 := by
  revert S; decide

theorem syndrome_two_flips_ne_zero {j k : Nat} (hj : j < 8) (hk : k < 8) (hjk : j ≠ k) :
    syndrome (flip j ^^^ flip k) ≠ 0#3 := by
  intro h0
  rw [syndrome_xor, BitVec.xor_eq_zero_iff] at h0
  have positions : BitVec.ofNat 3 j = BitVec.ofNat 3 k := by
    rw [← errorPosition_syndrome_flip hj, ← errorPosition_syndrome_flip hk, h0]
  have numbers := congrArg BitVec.toNat positions
  rw [BitVec.toNat_ofNat, BitVec.toNat_ofNat] at numbers
  omega

/-- Three flipped bits are never one flipped bit: of the first two, the one bit can be one only. -/
theorem three_flips_ne_flip {i j k m : Nat} (hij : i < j) (hjk : j < k) (hk : k < 8) :
    flip i ^^^ flip j ^^^ flip k ≠ flip m := by
  intro h
  have bit (n : Nat) (hn : n < 8) : ((decide (n = i) ^^ decide (n = j)) ^^ decide (n = k)) = decide (n = m) := by
    simpa only [BitVec.getLsbD_xor, getLsbD_flip hn] using congrArg (·.getLsbD n) h
  have hi : i = m := by simpa [hij.ne, (hij.trans hjk).ne] using bit i (by omega)
  have hj : j = m := by simpa [hij.ne', hjk.ne] using bit j (by omega)
  omega

/-! ### The decoder (R135, R136) -/

/-- The flip of the bit the syndrome names (R134). Syndrome 0 names bit 0, the parity bit, which no nibble contains. -/
def namedFlip (c : Byte) : Byte := flip (errorPosition (syndrome c)).toNat

theorem highNibble_xor_flip_zero (c : Byte) : highNibble (c ^^^ flip 0) = highNibble c := by
  simp [highNibble_xor, highNibble_flip]

theorem decodeByte_of_syndrome_eq_zero {c : Byte} (h : syndrome c = 0#3) :
    decodeByte c = ⟨highNibble c, false, 0#3⟩ := by
  simp [decodeByte, h]

theorem decodeByte_eq (c : Byte) :
    decodeByte c =
      ⟨highNibble (c ^^^ namedFlip c), decide (syndrome c ≠ 0#3), errorPosition (syndrome c)⟩ := by
  by_cases h : syndrome c = 0#3
  · have named : namedFlip c = flip 0 := by rw [namedFlip, h]; rfl
    rw [named, highNibble_xor_flip_zero, decodeByte_of_syndrome_eq_zero h, h]
    rfl
  · simp [decodeByte, h, namedFlip, flip]

theorem classify_eq_noError {c : Byte} (hS : syndrome c = 0#3) (hP : parityError c = false) :
    classify c = .noError := by
  simp [classify, hS, hP]

theorem classify_eq_parityOnly {c : Byte} (hS : syndrome c = 0#3) (hP : parityError c = true) :
    classify c = .parityOnly := by
  simp [classify, hS, hP]

theorem classify_eq_singleCorrected {c : Byte} (hS : syndrome c ≠ 0#3) (hP : parityError c = true) :
    classify c = .singleCorrected := by
  simp [classify, hS, hP]

theorem classify_eq_doubleUncorrectable_iff {c : Byte} :
    classify c = .doubleUncorrectable ↔ syndrome c ≠ 0#3 ∧ parityError c = false := by
  by_cases hS : syndrome c = 0#3
  · cases hP : parityError c <;> simp [classify, hS, hP]
  · cases hP : parityError c <;> simp [classify, hS, hP]

/-! ### A code word with an error pattern (R141) -/

@[simp] theorem syndrome_encNibble_xor (v : Nibble) (e : Byte) : syndrome (encNibble v ^^^ e) = syndrome e := by
  simp [syndrome_xor]

@[simp] theorem parityError_encNibble_xor (v : Nibble) (e : Byte) :
    parityError (encNibble v ^^^ e) = parityError e := by
  simp [parityError_xor]

@[simp] theorem classify_encNibble_xor (v : Nibble) (e : Byte) : classify (encNibble v ^^^ e) = classify e := by
  simp [classify]

theorem decodeByte_encNibble_xor (v : Nibble) (e : Byte) :
    decodeByte (encNibble v ^^^ e) = { decodeByte e with nibble := v ^^^ (decodeByte e).nibble } := by
  simp [decodeByte_eq, namedFlip, highNibble_xor, BitVec.xor_assoc]

theorem decodeByte_encNibble (v : Nibble) : decodeByte (encNibble v) = ⟨v, false, 0#3⟩ := by
  rw [decodeByte_of_syndrome_eq_zero (syndrome_encNibble v), highNibble_encNibble]

/-- The decoder repairs any one flip of bits 1 to 7, and a flipped parity bit asks for no repair. -/
theorem decodeByte_flip {k : Nat} (hk : k < 8) : decodeByte (flip k) = ⟨0#4, decide (k ≠ 0), BitVec.ofNat 3 k⟩ := by
  have named : namedFlip (flip k) = flip k := by
    rw [namedFlip, errorPosition_syndrome_flip hk, BitVec.toNat_ofNat, Nat.mod_eq_of_lt hk]
  rw [decodeByte_eq, named, BitVec.xor_self, errorPosition_syndrome_flip hk]
  simp [syndrome_flip_eq_zero_iff hk, highNibble]

/-! ### Every byte as a code word with at most two flips (R139, R140) -/

theorem syndrome_xor_namedFlip (c : Byte) : syndrome (c ^^^ namedFlip c) = 0#3 := by
  simp [syndrome_xor, namedFlip]

theorem parityError_xor_namedFlip (c : Byte) : parityError (c ^^^ namedFlip c) = !parityError c := by
  rw [parityError_xor, namedFlip, parityError_flip (BitVec.isLt _), Bool.xor_true]

theorem highNibble_xor_namedFlip (c : Byte) : highNibble (c ^^^ namedFlip c) = (decodeByte c).nibble := by
  rw [decodeByte_eq]

theorem xor_namedFlip_of_parityError {c : Byte} (hP : parityError c = true) :
    c ^^^ namedFlip c = encNibble (decodeByte c).nibble := by
  rw [← highNibble_xor_namedFlip]
  exact eq_encNibble_of_clean (syndrome_xor_namedFlip c) (by simp [parityError_xor_namedFlip, hP])

/-- With a parity error the byte is taken for the code word of the decoded nibble with the one flip DEC names. -/
theorem eq_encNibble_xor_of_parityError {c : Byte} (hP : parityError c = true) :
    c = encNibble (decodeByte c).nibble ^^^ namedFlip c := by
  rw [← xor_namedFlip_of_parityError hP, BitVec.xor_assoc, BitVec.xor_self, BitVec.xor_zero]

/-- Without one it is that code word with the same flip and a flipped parity bit. -/
theorem eq_encNibble_xor_of_not_parityError {c : Byte} (hP : parityError c = false) :
    c = encNibble (decodeByte c).nibble ^^^ (namedFlip c ^^^ flip 0) := by
  have repaired : c ^^^ (namedFlip c ^^^ flip 0) = encNibble (decodeByte c).nibble := by
    rw [← highNibble_xor_namedFlip, ← highNibble_xor_flip_zero, ← BitVec.xor_assoc]
    refine eq_encNibble_of_clean ?_ ?_
    · simp [syndrome_xor _ (flip 0), syndrome_xor_namedFlip, syndrome_flip_eq_zero_iff]
    · simp [parityError_xor _ (flip 0), parityError_xor_namedFlip, hP, parityError_flip]
  rw [← repaired, BitVec.xor_assoc, BitVec.xor_self, BitVec.xor_zero]

/-- At most two flips of a code word change the decoded nibble in the class DOUBLE_UNCORRECTABLE only: the code word
the flips are read as has weight less than four. -/
theorem decodeByte_nibble_of_ones_le_two {e : Byte} (h : ones e ≤ 2) (hK : classify e ≠ .doubleUncorrectable) :
    (decodeByte e).nibble = 0#4 := by
  by_contra hn
  have heavy := four_le_ones_encNibble hn
  cases hP : parityError e with
  | true =>
    have one : ones (namedFlip e) = 1 := ones_flip (BitVec.isLt _)
    have light := ones_xor_le e (namedFlip e)
    rw [xor_namedFlip_of_parityError hP] at light
    omega
  | false =>
    have hS : syndrome e = 0#3 := by
      by_contra hS
      exact hK (classify_eq_doubleUncorrectable_iff.2 ⟨hS, hP⟩)
    rw [decodeByte_of_syndrome_eq_zero hS, ← eq_encNibble_of_clean hS hP] at heavy
    omega

/-! ### Counting (R139) -/

theorem countP_range_mul (p : Nat → Bool) (m n : Nat) :
    (List.range (m * n)).countP p = ((List.range m).map fun i => (List.range n).countP fun j => p (i * n + j)).sum := by
  induction m with
  | zero => simp
  | succ m ih => simp [Nat.succ_mul, List.range_add, List.range_succ, ih, List.countP_map, Function.comp_def]

/-- The partition of the 256 bytes, taken in 16 rows by their high nibble. -/
theorem classify_partition :
    ((List.range 256).countP fun n => classify (BitVec.ofNat 8 n) = .noError) = 16 ∧
    ((List.range 256).countP fun n => classify (BitVec.ofNat 8 n) = .parityOnly) = 16 ∧
    ((List.range 256).countP fun n => classify (BitVec.ofNat 8 n) = .singleCorrected) = 112 ∧
    ((List.range 256).countP fun n => classify (BitVec.ofNat 8 n) = .doubleUncorrectable) = 112 := by
  have rows (p : Nat → Bool) := countP_range_mul p 16 16
  simp only [show 256 = 16 * 16 from rfl, rows]
  decide

/-- Adding a nibble only permutes the nibbles. -/
theorem xor_nibbles_perm (u : Nibble) :
    ((List.range 16).map fun n => u ^^^ BitVec.ofNat 4 n).Perm ((List.range 16).map (BitVec.ofNat 4)) := by
  revert u; decide

/-- How many code words are two bits from a word depends on its error pattern alone. -/
theorem countP_encNibble_xor (u : Nibble) (e : Byte) :
    ((List.range 16).countP fun n => ones (encNibble u ^^^ e ^^^ encNibble (BitVec.ofNat 4 n)) = 2) =
      (List.range 16).countP fun n => ones (e ^^^ encNibble (BitVec.ofNat 4 n)) = 2 := by
  have moved (n : Nat) : encNibble u ^^^ e ^^^ encNibble (BitVec.ofNat 4 n) =
      e ^^^ encNibble (u ^^^ BitVec.ofNat 4 n) := by
    rw [encNibble_xor, BitVec.xor_comm (encNibble u) e, BitVec.xor_assoc]
  have same := (xor_nibbles_perm u).countP_eq fun x => ones (e ^^^ encNibble x) = 2
  simpa [List.countP_map, Function.comp_def, moved] using same

theorem countP_codeWords_two_bits_from_flips (S : Syndrome) (hS : S ≠ 0#3) :
    ((List.range 16).countP fun n =>
      ones (flip (errorPosition S).toNat ^^^ flip 0 ^^^ encNibble (BitVec.ofNat 4 n)) = 2) = 4 := by
  revert S; decide

theorem exists_codeWord_two_bits_from_flips (S : Syndrome) (hS : S ≠ 0#3) :
    ∃ d : Nibble, d ≠ 0#4 ∧ ones (flip (errorPosition S).toNat ^^^ flip 0 ^^^ encNibble d) = 2 := by
  revert S; decide

end Sys2Proof.Machine
end

section
/-! The statements about U1 HammingCodec, each from the linear form of the code. -/

namespace Sys2Proof.Machine

/-! ### The guarantees and their limit (R139 to R141) -/

/-- Settles O7: the decoder's answer to each error pattern, carried to every code word; the counts row by row. -/
theorem codeCorrectsOneDetectsTwo : Obligations.CodeCorrectsOneDetectsTwo := by
  refine ⟨fun v s => ⟨encNibble v, rfl, ?clean, fun k h1 h7 => ?single, ?parity, fun j k hjk hk => ?double⟩,
    fun s => ⟨encNibble, classify, fun _ => rfl, fun _ => rfl, fun c hc => ?distance, classify_partition⟩⟩
  case clean =>
    simp [decodeByte_encNibble, classify_eq_noError]
  case single =>
    have hk : k < 8 := by omega
    have hS : syndrome (flip k) ≠ 0#3 := (syndrome_flip_eq_zero_iff hk).not.2 (by omega)
    simp [decodeByte_encNibble_xor, decodeByte_flip hk, parityError_flip hk,
      classify_eq_singleCorrected hS (parityError_flip hk), show k ≠ 0 by omega]
  case parity =>
    have hS : syndrome (flip 0) = 0#3 := rfl
    have hP : parityError (flip 0) = true := rfl
    simp [decodeByte_encNibble_xor, decodeByte_flip, hS, hP, classify_eq_parityOnly hS hP]
  case double =>
    have hS := syndrome_two_flips_ne_zero (by omega : j < 8) (by omega : k < 8) hjk.ne
    have hP : parityError (flip j ^^^ flip k) = false := by
      rw [parityError_xor, parityError_flip (by omega), parityError_flip (by omega)]
      rfl
    have word : encNibble v ^^^ flip j ^^^ flip k = encNibble v ^^^ (flip j ^^^ flip k) := BitVec.xor_assoc ..
    rw [word]
    refine ⟨⟨_, ?_, rfl⟩, ?_, ?_⟩
    · rwa [syndrome_encNibble_xor]
    · simp [hP]
    · simp [classify_eq_doubleUncorrectable_iff.2 ⟨hS, hP⟩]
  case distance =>
    obtain ⟨hS, hP⟩ := classify_eq_doubleUncorrectable_iff.1 hc
    rw [eq_encNibble_xor_of_not_parityError hP, countP_encNibble_xor]
    exact countP_codeWords_two_bits_from_flips _ hS

/-- Settles O8: ENC, SYN and PAR are linear and a code word has neither syndrome nor parity error, so only the pattern
is left. -/
theorem codecIsLinear : Obligations.CodecIsLinear := by
  refine ⟨encNibble, syndrome, parityError, classify, decodeByte, fun _ _ => rfl, fun _ _ => ⟨rfl, rfl, rfl, rfl⟩,
    rfl, rfl, rfl, rfl, encNibble_xor, fun a b => ⟨syndrome_xor a b, parityError_xor a b⟩, fun c => ?masks,
    fun v e => ⟨syndrome_encNibble_xor v e, parityError_encNibble_xor v e, classify_encNibble_xor v e, ?_⟩,
    fun k h1 h7 => ?_⟩
  case masks =>
    obtain ⟨h0, h1, h2⟩ := syndrome_getElem c
    have all : c &&& 0xFF#8 = c := BitVec.and_allOnes
    simp only [h0, h1, h2, all, parityError_eq_odd_ones, and_self]
  · rw [decodeByte_encNibble_xor]
  · have hk : k < 8 := by omega
    rw [decodeByte_flip hk, BitVec.toNat_ofNat, Nat.mod_eq_of_lt hk]

/-- Settles O9: an odd number of flips makes a parity error, so the byte is read as a code word with one flip; were its
nibble the one sent, the three flips would be that one. -/
theorem threeErrorsPassForOne : Obligations.ThreeErrorsPassForOne := by
  intro v s i j k hij hjk hk
  have hP : parityError (flip i ^^^ flip j ^^^ flip k) = true := by
    rw [parityError_xor, parityError_xor, parityError_flip (by omega), parityError_flip (by omega),
      parityError_flip hk]
    rfl
  refine ⟨encNibble v, _, _, rfl, rfl, rfl, fun hv => ?_, ?_⟩
  · simp only [BitVec.xor_assoc (encNibble v)] at hv
    have read := eq_encNibble_xor_of_parityError ((parityError_encNibble_xor v _).trans hP)
    rw [hv, BitVec.xor_right_inj] at read
    exact three_flips_ne_flip hij hjk hk read
  · simp only [BitVec.xor_assoc (encNibble v), classify_encNibble_xor]
    by_cases hS : syndrome (flip i ^^^ flip j ^^^ flip k) = 0#3
    · exact .inr (classify_eq_parityOnly hS hP)
    · exact .inl (classify_eq_singleCorrected hS hP)

/-! ### The operations one by one (R130 to R136) -/

/-- Settles O1: the equations of R130 at each of the 16 nibbles. -/
theorem encComputesCodeWord : Obligations.EncComputesCodeWord := by
  intro v s
  refine ⟨encNibble v, rfl, ?_⟩
  revert v; decide

/-- Settles O2: the distance of two code words is the weight of the code word of their difference. -/
theorem codeWordsHaveDistanceFour : Obligations.CodeWordsHaveDistanceFour := by
  refine ⟨codeWords, by decide, ?_⟩
  simp only [codeWords_getElem]
  refine ⟨fun _ _ => rfl, highNibble_encNibble, by decide, fun v v' h => ?_, 0#4, 1#4, by decide⟩
  rw [← encNibble_xor]
  exact four_le_ones_encNibble (BitVec.xor_eq_zero_iff.not.2 h)

/-- Settles O3: the masks of R132 give the parities, and linearity the columns of R134. -/
theorem synComputesSyndrome : Obligations.SynComputesSyndrome := by
  refine ⟨syndrome, fun _ _ => rfl, fun c => ?_, fun v w s h => ?_, rfl⟩
  · refine ⟨?s0, ?s1, ?s2, ?bit0, syndrome_xor c (flip 1), syndrome_xor c (flip 2), syndrome_xor c (flip 3),
      syndrome_xor c (flip 4), syndrome_xor c (flip 5), syndrome_xor c (flip 6), syndrome_xor c (flip 7), ?masks⟩
    case s0 => revert c; decide
    case s1 => revert c; decide
    case s2 => revert c; decide
    case bit0 => rw [syndrome_xor, show syndrome 0x01#8 = 0#3 from rfl, BitVec.xor_zero]
    case masks => simpa only [parityError_eq_odd_ones] using syndrome_getElem c
  · rw [eq_encNibble_of_exec_enc h, syndrome_encNibble]

/-- Settles O4: parity is linear, and one flip has it. -/
theorem parIsOddNumberOfOnes : Obligations.ParIsOddNumberOfOnes := by
  refine ⟨parityError, fun _ _ => rfl,
    fun c => ⟨rfl, parityError_eq_odd_ones c, fun k hk => ?_, fun j k hj hk _ => ?_⟩, fun v w s h => ?_, rfl⟩
  · rw [parityError_xor, parityError_flip hk, Bool.xor_true]
  · simp [parityError_xor, parityError_flip hj, parityError_flip hk]
  · rw [eq_encNibble_of_exec_enc h, parityError_encNibble]

/-- Settles O5: the nibble is that of the byte with the named bit flipped, and the flip of a single error is the one its
syndrome names. -/
theorem decFlipsTheNamedBit : Obligations.DecFlipsTheNamedBit := by
  intro c s
  have hlt : (errorPosition (syndrome c)).toNat < 8 := BitVec.isLt _
  have nibble : (decodeByte c).nibble = highNibble c ^^^ highNibble (namedFlip c) := by
    rw [← highNibble_xor_namedFlip, highNibble_xor]
  refine ⟨syndrome c, decodeByte c, (errorPosition (syndrome c)).toNat, rfl, rfl, ?table, by rw [decodeByte_eq],
    fun hS => ?noError, fun hS => ?flipped, fun h3 => ?checkBit, fun h4 => ?dataBit, fun v w j hw h1 h7 hc => ?single,
    ?sample⟩
  case table =>
    generalize syndrome c = S
    revert S; decide
  case noError =>
    rw [decodeByte_of_syndrome_eq_zero hS]
    exact ⟨rfl, rfl⟩
  case flipped =>
    have hpos : (errorPosition (syndrome c)).toNat ≠ 0 := (errorPosition_eq_zero_iff _).not.2 hS
    refine ⟨(highNibble_xor_namedFlip c).symm, by simp [decodeByte_eq, hS], by omega, by omega, ?_⟩
    rw [BitVec.getLsbD_xor, getLsbD_flip (by decide), decide_eq_false hpos.symm, Bool.xor_false]
  case checkBit =>
    rw [nibble, namedFlip, highNibble_flip hlt, if_pos h3, BitVec.xor_zero]
    rfl
  case dataBit =>
    rw [nibble, namedFlip, highNibble_flip hlt, if_neg (by omega)]
    rfl
  case single =>
    have position : (errorPosition (syndrome c)).toNat = j := by
      rw [hc, eq_encNibble_of_exec_enc hw, syndrome_encNibble_xor, errorPosition_syndrome_flip (by omega),
        BitVec.toNat_ofNat, Nat.mod_eq_of_lt (by omega)]
    refine ⟨position, ?_⟩
    rw [position, hc, BitVec.xor_assoc, BitVec.xor_self, BitVec.xor_zero]
  case sample =>
    rintro rfl
    decide

/-- Settles O6: of at most two flips only a double error changes the nibble, and a byte read as a double error has a
second reading as near as the first. -/
theorem clsIsTheFourCases : Obligations.ClsIsTheFourCases := by
  intro c s
  refine ⟨syndrome c, parityError c, classify c, decodeByte c, rfl, rfl, rfl, rfl, classify_eq_noError,
    classify_eq_parityOnly, fun hS hP => classify_eq_doubleUncorrectable_iff.2 ⟨hS, hP⟩, classify_eq_singleCorrected,
    fun v w hw h2 hK => ?trusted, fun hK => ?untrusted, ?parityExample, ?singleExample⟩
  case trusted =>
    obtain rfl := eq_encNibble_of_exec_enc hw
    have received : c = encNibble v ^^^ (c ^^^ encNibble v) := by
      rw [BitVec.xor_comm c, ← BitVec.xor_assoc, BitVec.xor_self, BitVec.zero_xor]
    rw [received, classify_encNibble_xor] at hK
    rw [received, decodeByte_encNibble_xor, decodeByte_nibble_of_ones_le_two h2 hK, BitVec.xor_zero]
  case untrusted =>
    obtain ⟨hS, hP⟩ := classify_eq_doubleUncorrectable_iff.1 hK
    obtain ⟨d, hd, near⟩ := exists_codeWord_two_bits_from_flips _ hS
    refine ⟨(decodeByte c).nibble ^^^ d, _, rfl, ?_, fun same => hd ?_⟩
    · rw [encNibble_xor, xor_xor_of_eq_xor (eq_encNibble_xor_of_not_parityError hP)]
      exact near
    · exact (BitVec.xor_right_inj _).1 (same.symm.trans BitVec.xor_zero.symm)
  case parityExample =>
    rintro rfl
    decide
  case singleExample =>
    rintro rfl
    decide

end Sys2Proof.Machine
end

section
/-! U2 PacketCodec (41_packet_codec.md). What PKT_ENC and PKT_DEC put at each place of a frame and a payload, so that every
statement about the packet is one about the bytes of the code. -/

namespace Sys2Proof.Machine

/-! ### What the operations do -/

@[simp] theorem exec_pktEnc (p : Payload) (s : State) :
    exec (.pktEnc p) s = .next (s.emit (.peFrame (packetEncode p))) := rfl
@[simp] theorem exec_pktDec (f : Frame) (s : State) :
    exec (.pktDec f) s = .next (s.emit (.pdPayload (packetDecode f))) := rfl

theorem exec_tokDataEncode {s : State} (hm : s.mode = .encode) (b : Byte) :
    exec (.tokDataEncode b) s =
      .next { s with codeLo := encNibble (lowNibble b), codeHi := encNibble (highNibble b), dispValid := true } := by
  simp only [exec, execTokDataEncode, hm]

/-! ### The places of a frame and of a payload (R65, R160, R161) -/

theorem packetEncode_getElem (p : Payload) {k : Nat} (hk : k < 32) :
    (packetEncode p)[k] = encNibble (frameNibble p ⟨k, hk⟩) := by
  simp [packetEncode]

theorem packetEncode_low (p : Payload) (i : Fin 16) :
    (packetEncode p)[2 * i.val] = encNibble (lowNibble p[i]) := by
  simp [packetEncode_getElem, frameNibble]

theorem packetEncode_high (p : Payload) (i : Fin 16) :
    (packetEncode p)[2 * i.val + 1] = encNibble (highNibble p[i]) := by
  have place : (2 * i.val + 1) / 2 = i.val := by omega
  simp [packetEncode_getElem, frameNibble, place]

theorem packetDecode_getElem (f : Frame) (i : Fin 16) :
    (packetDecode f)[i] =
      joinNibbles (decodeByte f[2 * i.val + 1]).nibble (decodeByte f[2 * i.val]).nibble := by
  simp [packetDecode]

/-- A payload whose bytes repeat one nibble has a frame that repeats its code word. -/
theorem packetEncode_replicate {b : Byte} {v : Nibble} (hlo : lowNibble b = v) (hhi : highNibble b = v) :
    packetEncode (Vector.replicate 16 b) = Vector.replicate 32 (encNibble v) := by
  ext k hk
  simp [packetEncode_getElem, frameNibble, hlo, hhi]

/-! ### The round trip, with one error in each byte (R162) -/

theorem eq_zero_or_flip_of_ones_le_one {e : Byte} (h : ones e ≤ 1) : e = 0#8 ∨ ∃ k < 8, e = flip k := by
  revert e; decide

theorem decodeByte_nibble_of_ones_le_one {c : CodedByte} {v : Nibble} (h : ones (c ^^^ encNibble v) ≤ 1) :
    (decodeByte c).nibble = v := by
  rcases eq_zero_or_flip_of_ones_le_one h with h0 | ⟨k, hk, hf⟩
  · rw [BitVec.xor_eq_zero_iff.1 h0, decodeByte_encNibble]
  · have received : c = encNibble v ^^^ flip k := by
      rw [← hf, BitVec.xor_comm c, ← BitVec.xor_assoc, BitVec.xor_self, BitVec.zero_xor]
    rw [received, decodeByte_encNibble_xor, decodeByte_flip hk, BitVec.xor_zero]

theorem packetDecode_of_one_error_per_byte {p : Payload} {f : Frame}
    (h : ∀ k : Fin 32, ones (f[k] ^^^ (packetEncode p)[k]) ≤ 1) : packetDecode f = p := by
  ext1 i hi
  have low : (decodeByte f[2 * i]).nibble = lowNibble p[i] :=
    decodeByte_nibble_of_ones_le_one (packetEncode_low p ⟨i, hi⟩ ▸ h ⟨2 * i, by omega⟩)
  have high : (decodeByte f[2 * i + 1]).nibble = highNibble p[i] :=
    decodeByte_nibble_of_ones_le_one (packetEncode_high p ⟨i, hi⟩ ▸ h ⟨2 * i + 1, by omega⟩)
  calc (packetDecode f)[i]
      = joinNibbles (decodeByte f[2 * i + 1]).nibble (decodeByte f[2 * i]).nibble :=
        packetDecode_getElem f ⟨i, hi⟩
    _ = p[i] := by rw [low, high, join_nibbles]

theorem packetDecode_packetEncode (p : Payload) : packetDecode (packetEncode p) = p := by
  refine packetDecode_of_one_error_per_byte fun k => ?_
  rw [BitVec.xor_self]
  decide

theorem packetEncode_injective : Function.Injective packetEncode :=
  Function.LeftInverse.injective packetDecode_packetEncode

/-! ### The statements -/

/-- Settles O12: each pair of frame bytes decodes to the nibbles of its payload byte. -/
theorem frameSurvivesOneErrorPerByte : Obligations.FrameSurvivesOneErrorPerByte := by
  intro p s
  refine ⟨packetEncode p, exec_pktEnc p s, ?_, fun f' h => ?_⟩
  · rw [exec_pktDec, packetDecode_packetEncode]
  · rw [exec_pktDec, packetDecode_of_one_error_per_byte h]

/-- Settles O10: the two places of each payload byte; PKT_DEC undoes PKT_ENC, so no two payloads share a frame. -/
theorem pktEncEncodesEveryNibble : Obligations.PktEncEncodesEveryNibble := by
  refine ⟨packetEncode, fun p s => ⟨exec_pktEnc p s, fun i => ⟨?_, ?_⟩⟩, fun _ _ h => packetEncode_injective h,
    packetEncode_replicate rfl rfl, packetEncode_replicate rfl rfl⟩
  · rw [packetEncode_low]
    exact exec_enc _ s
  · rw [packetEncode_high]
    exact exec_enc _ s

/-- Settles O11: the payload byte at each place is the assembly of the two decoded nibbles. -/
theorem pktDecDecodesEveryPair : Obligations.PktDecDecodesEveryPair := fun f s =>
  ⟨packetDecode f, exec_pktDec f s, fun i => ⟨_, _, exec_dec _ s, exec_dec _ s, packetDecode_getElem f i⟩⟩

/-- Settles O40: TOK_DATA_ENCODE stores the code words that PKT_ENC puts at the two places of the byte. -/
theorem encodeModeMirrorsThePacketCodec : Obligations.EncodeModeMirrorsThePacketCodec := by
  intro s t b p i hb hm h
  refine ⟨packetEncode p, exec_pktEnc p s, ?_⟩
  rw [exec_tokDataEncode hm] at h
  cases h
  rw [packetEncode_low, packetEncode_high, hb]
  rfl

end Sys2Proof.Machine
end

section
/-! The block's invariant (42 R183, 43 R210, 45 R271): every named update of the state keeps it, so every operation
does, and so does every step. -/

namespace Sys2Proof.Machine

/-! ### What counts as handed over -/

theorem sentFrames_emit {s : State} {o : Output} (h : ∀ f, o ≠ .transmit f) :
    sentFrames (s.emit o).outputs = sentFrames s.outputs := by
  rw [State.emit_outputs, sentFrames_append, sentFrames_other h, List.append_nil]

theorem timesEmitted_append (o : Output) (a b : List Output) :
    timesEmitted o (a ++ b) = timesEmitted o a + timesEmitted o b :=
  List.count_append

/-! ### The updates keep the invariant -/

namespace State.Inv

variable {s : State}

theorem emit (h : s.Inv) {o : Output} (hf : ∀ f, o ≠ .transmit f) (ht : o ≠ .statusToggle) : (s.emit o).Inv :=
  { h with
    sentFrame := by
      rw [sentFrames_emit hf]
      exact h.sentFrame
    toggles := by
      have noToggle : timesEmitted .statusToggle [o] = 0 := List.count_eq_zero.2 (by simpa using ht.symm)
      rw [sentFrames_emit hf, emit_outputs, timesEmitted_append, noToggle]
      exact h.toggles }

theorem pushed (h : s.Inv) (p : Payload) : (s.pushed p).Inv := by
  by_cases room : s.q.length < 10
  · have fits := pushed_keeps_fit h.queueWf p
    rw [pushed_of_room room] at fits ⊢
    exact { h with queueWf := fits }
  · rw [pushed_of_full (Nat.le_of_not_lt room)]
    exact h

theorem takeOldest (h : s.Inv) : s.takeOldest.2.Inv := by
  have fits := takeOldest_keeps_fit h.queueWf
  rcases s.takeOldest_cases with ⟨-, e⟩ | ⟨p, rest, -, e⟩ <;> rw [e] at fits ⊢
  · exact h
  · exact { h with queueWf := fits }

theorem fetched (h : s.Inv) {p : Payload} {rest : List Payload} (hq : s.q = p :: rest) :
    { s with q := rest, txFrame := packetEncode p, txState := .transmit }.Inv :=
  { h with
    queueWf := (Nat.le_of_succ_le (hq ▸ h.queueWf : (p :: rest).length ≤ Config.queueDepth))
    pendingFrame := fun _ => ⟨p, rfl⟩ }

/-- TX_SEND hands over the pending frame, a PKT_ENC, with one status toggle. -/
theorem sent (h : s.Inv) (ht : s.txState = .transmit) (f : Frame) (n : Nat) :
    { s with txState := .standby, txFrame := f, freeIdx := n,
             outputs := s.outputs ++ [Output.transmit s.txFrame, Output.statusToggle] }.Inv :=
  { h with
    pendingFrame := fun e => by cases e
    sentFrame := by
      intro g hg
      rw [sentFrames_append, List.mem_append] at hg
      rcases hg with hg | hg
      · exact h.sentFrame g hg
      · rw [List.mem_singleton.1 hg]
        exact h.pendingFrame ht
    toggles := by
      rw [sentFrames_append, timesEmitted_append, h.toggles, List.length_append]
      rfl }

theorem setButton (h : s.Inv) (id : Nat) (b : PressState) : (s.setButton id b).Inv :=
  { h with buttonForEach := List.length_set.trans h.buttonForEach }

theorem enterMode (h : s.Inv) (m : Mode) : (s.enterMode m).Inv := by
  by_cases effective : s.mode ≠ m ∨ s.build.cmdSameModeResets = true
  · rw [enterMode_effective effective]
    exact
      { h with
        lastInDecode := fun e => by cases e
        dispNotIdle := fun e => by cases e
        dispHasClass := fun _ => rfl
        shownCodes := fun _ e => by cases e
        lastOfOneByte := fun e => by cases e }
  · obtain ⟨same, noReset⟩ := not_or.1 effective
    rw [enterMode_same (not_not.1 same) (Bool.eq_false_iff.2 noReset)]
    exact h

theorem encoded (h : s.Inv) (hm : s.mode = .encode) (b : Byte) :
    { s with codeLo := encNibble (lowNibble b), codeHi := encNibble (highNibble b), dispValid := true }.Inv :=
  { h with
    dispNotIdle := fun _ => .inl hm
    dispHasClass := fun e => by cases hm.symm.trans e
    shownCodes := fun _ _ => ⟨b, rfl, rfl⟩ }

theorem decoded (h : s.Inv) (hm : s.mode = .decode) (b : Byte) :
    { s with decNib := (decodeByte b).nibble, lastClass := classify b, lastValid := true, dispValid := true }.Inv :=
  { h with
    lastInDecode := fun _ => hm
    dispNotIdle := fun _ => .inr hm
    dispHasClass := fun _ => rfl
    shownCodes := fun e => by cases hm.symm.trans e
    lastOfOneByte := fun _ => ⟨b, rfl, rfl⟩ }

theorem afterReset (h : s.Inv) : s.afterReset.Inv :=
  { h with
    queueWf := afterReset_fits s
    buttonForEach := List.length_map _
    pendingFrame := fun e => by cases e
    lastInDecode := fun e => by cases e
    dispNotIdle := fun e => by cases e
    dispHasClass := fun _ => rfl
    shownCodes := fun e => by cases e
    lastOfOneByte := fun e => by cases e }

end State.Inv

/-! ### The operations and the step -/

theorem token_keeps_inv {s t : State} {c1 c2 : CharCode} (hs : s.Inv)
    (h : exec (decodeToken s.mode c1 c2) s = .next t) : t.Inv := by
  rcases token_next h with ⟨m, -, -, -, rfl⟩ | ⟨-, rfl⟩ | ⟨-, ⟨-, rfl⟩ | ⟨b, hm, rfl⟩ | ⟨b, hm, rfl⟩⟩
  · exact hs.enterMode m
  · exact hs.emit nofun nofun
  · exact hs
  · exact hs.encoded hm b
  · exact hs.decoded hm b

theorem exec_keeps_inv {i : Instr} {s t : State} (hs : s.Inv) (h : exec i s = .next t) : t.Inv := by
  cases exec_effect h with
  | puts i o ho hl hi => exact hs.emit ho.1 ho.2
  | push p => exact (hs.pushed p).emit nofun nofun
  | pop => exact hs.takeOldest.emit nofun nofun
  | stay i hi => exact hs
  | fetch p rest ht hq => exact hs.fetched hq
  | send ht => exact hs.sent ht _ _
  | sample id raw now b hb hn =>
    have sampled := hs.setButton id (b.sampled s.build.debounceWindow (s.isAsserted id raw) now)
    split
    · exact sampled.emit (o := .pressEvent id) nofun nofun
    · rw [List.append_nil]
      exact sampled
  | zero id b hb => exact hs.setButton id _
  | first ch hp => exact { hs with }
  | second ch t hp hx => exact token_keeps_inv (s := { s with pendValid := false }) { hs with } hx
  | enter i m hi => exact hs.enterMode m
  | encoded b hm => exact hs.encoded hm b
  | decoded b hm => exact hs.decoded hm b
  | toggled => exact { hs with }
  | cleared => exact hs.afterReset

theorem selected_keeps_inv {s u : State} {o : Option Instr} (hs : s.Inv) (h : selected s = .ok (o, u)) : u.Inv := by
  obtain ⟨ins, n, rfl⟩ := selected_same h
  exact { hs with }

/-- Settles O47: the selection keeps the invariant, the operation does, and the toggle wire writes no register that the
invariant speaks of. -/
theorem everyStepKeepsTheInvariant : Obligations.EveryStepKeepsTheInvariant := by
  intro s t hs h
  rcases step_next h with idle | ⟨i, u, v, hu, hx, ht⟩
  · exact selected_keeps_inv hs idle
  · have operation : v.Inv := exec_keeps_inv (selected_keeps_inv hs hu) hx
    rcases ht with ⟨-, rfl⟩ | ⟨-, rfl⟩
    · exact operation
    · exact { operation with }

/-- Settles O46: at reset nothing is queued, pending, sent, displayed or classified. -/
theorem resetMeetsTheInvariant : Obligations.ResetMeetsTheInvariant where
  queueWf := State.reset_fits
  buttonForEach := List.length_map _
  pendingFrame := fun e => by cases e
  sentFrame := nofun
  toggles := rfl
  lastInDecode := fun e => by cases e
  dispNotIdle := fun e => by cases e
  dispHasClass := fun _ => rfl
  shownCodes := fun e => by cases e
  lastOfOneByte := fun e => by cases e

end Sys2Proof.Machine
end

section
/-! U3 TransmitQueue (42_transmit_queue.md): Q_PUSH and Q_POP, the status outputs, and the register-level form (R182). -/

namespace Sys2Proof.Machine

/-! ### Q_PUSH and Q_POP (R176, R177) -/

theorem exec_qPush (p : Payload) (s : State) :
    exec (.qPush p) s = .next ((s.pushed p).emit (.accepted s.hasRoom)) := rfl

theorem exec_qPop (s : State) : exec .qPop s = .next (s.takeOldest.2.emit (.popped s.takeOldest.1)) := rfl

theorem exec_qPush_of_room {s : State} (h : s.q.length < 10) (p : Payload) :
    exec (.qPush p) s = .next { s with q := s.q ++ [p], outputs := s.outputs ++ [.accepted true] } := by
  rw [exec_qPush, State.pushed_of_room h, (State.hasRoom_iff s).2 h]
  rfl

theorem exec_qPush_of_full {s : State} (h : 10 ≤ s.q.length) (p : Payload) :
    exec (.qPush p) s = .next { s with outputs := s.outputs ++ [.accepted false] } := by
  have noRoom : s.hasRoom = false := Bool.eq_false_iff.2 fun e => Nat.not_lt.2 h ((State.hasRoom_iff s).1 e)
  rw [exec_qPush, State.pushed_of_full h, noRoom]
  rfl

theorem exec_qPop_of_nil {s : State} (h : s.q = []) :
    exec .qPop s = .next { s with outputs := s.outputs ++ [.popped none] } := by
  rw [exec_qPop]
  simp [State.takeOldest, h, State.emit]

theorem exec_qPop_of_cons {s : State} {p : Payload} {rest : List Payload} (h : s.q = p :: rest) :
    exec .qPop s = .next { s with q := rest, outputs := s.outputs ++ [.popped (some p)] } := by
  rw [exec_qPop]
  simp [State.takeOldest, h, State.emit]

/-- An operation a port selects has its own point at a port. -/
theorem point_external_of_decode {c : Context} {st : Stimulus} {i : Instr} (hx : st.select.external = true)
    (h : decode c st = .ok i) : (encode i).select.external = true := by
  rw [(decode_selectableAt h).point]
  exact hx

/-- Settles O13, by the two cases of the storage operation. -/
theorem pushAppendsOrIsRefused : Obligations.PushAppendsOrIsRefused := fun p _ =>
  ⟨fun h => exec_qPush_of_room h p, fun h => exec_qPush_of_full h p⟩

/-- Settles O14: the point of Q_POP lies inside the block. -/
theorem popTakesTheOldest : Obligations.PopTakesTheOldest := by
  refine ⟨fun c st hx h => ?_, fun s => ⟨exec_qPop_of_nil, fun p rest => exec_qPop_of_cons⟩⟩
  cases point_external_of_decode hx h

/-! ### The status outputs (R178, R24) -/

theorem State.countQ_toNat {s : State} (h : s.q.length ≤ 10) : s.countQ.toNat = s.q.length := by
  rw [State.countQ, BitVec.toNat_ofNat, Nat.mod_eq_of_lt (by omega)]

theorem State.full_iff (s : State) : s.full = true ↔ s.q.length = 10 := beq_iff_eq

theorem State.pushReady_eq_hasRoom {s : State} (h : s.q.length ≤ 10) : s.pushReady = s.hasRoom := by
  have below : s.q.length ≠ 10 ↔ s.q.length < 10 := by omega
  rw [Bool.eq_iff_iff, State.hasRoom_iff, ← below, State.pushReady, Bool.not_eq_true', Bool.eq_false_iff]
  exact not_congr s.full_iff

/-- Settles O15: in a queue of at most ten, not full is room for one more. -/
theorem statusOutputsFollowTheQueue : Obligations.StatusOutputsFollowTheQueue := by
  refine fun s h => ⟨State.countQ_toNat h, beq_iff_eq, s.full_iff, rfl, fun p => ⟨_, exec_qPush p s, ?_⟩⟩
  rw [State.emit_outputs, State.pushed_outputs, State.pushReady_eq_hasRoom h]

/-! ### The register-level form (R182) -/

/-- The index `k` places after `i`, round the ten of the array. -/
def slot (i : Fin 10) (k : Nat) : Fin 10 := ⟨(i.val + k) % 10, Nat.mod_lt _ (by decide)⟩

theorem slot_zero (i : Fin 10) : slot i 0 = i := Fin.ext (Nat.mod_eq_of_lt i.isLt)

theorem nextIndex_val (i : Fin 10) : (nextIndex i).val = (i.val + 1) % 10 := by
  revert i; decide

theorem slot_nextIndex (i : Fin 10) (k : Nat) : slot (nextIndex i) k = slot i (k + 1) := by
  apply Fin.ext
  have := nextIndex_val i
  simp only [slot]
  omega

theorem nextIndex_slot (i : Fin 10) (k : Nat) : nextIndex (slot i k) = slot i (k + 1) := by
  apply Fin.ext
  rw [nextIndex_val]
  simp only [slot]
  omega

/-- Fewer than ten places apart, two slots are different entries of the array. -/
theorem slot_val_ne {k n : Nat} (h : k < n) (hn : n < 10) (i : Fin 10) : (slot i n).val ≠ (slot i k).val := by
  simp only [slot]
  omega

theorem entriesFrom_eq_map (mem : Vector Payload 10) (n : Nat) (i : Fin 10) :
    entriesFrom mem n i = (List.range n).map fun k => mem[slot i k] := by
  induction n generalizing i with
  | zero => rfl
  | succ n ih =>
    rw [entriesFrom, ih, List.range_succ_eq_map, List.map_cons, List.map_map]
    simp only [slot_zero, slot_nextIndex, Function.comp_def]

theorem entriesFrom_length (mem : Vector Payload 10) (n : Nat) (i : Fin 10) : (entriesFrom mem n i).length = n := by
  rw [entriesFrom_eq_map, List.length_map, List.length_range]

/-- Writing the entry after the last adds it at the end and overwrites none. -/
theorem entriesFrom_set_slot (mem : Vector Payload 10) {n : Nat} (hn : n < 10) {i w : Fin 10} (hw : w = slot i n)
    (p : Payload) : entriesFrom (mem.set w p) (n + 1) i = entriesFrom mem n i ++ [p] := by
  subst hw
  simp only [entriesFrom_eq_map, List.range_succ, List.map_append, List.map_singleton]
  congr 1
  · refine List.map_congr_left fun k hk => ?_
    exact Vector.getElem_set_ne _ _ (slot_val_ne (List.mem_range.1 hk) hn i)
  · simp

namespace RegisterQueue

variable {f : RegisterQueue}

theorem inv_iff : f.Inv ↔ f.cnt ≤ 10 ∧ f.wp = slot f.rp f.cnt := 
  and_congr_right fun _ => (Fin.ext_iff (b := slot f.rp f.cnt)).symm

theorem payloads_length : f.payloads.length = f.cnt := entriesFrom_length ..

theorem push_of_room (h : f.cnt < 10) (p : Payload) :
    f.push p = (true, { f with mem := f.mem.set f.wp p, wp := nextIndex f.wp, cnt := f.cnt + 1 }) := if_pos h

theorem push_of_full (h : 10 ≤ f.cnt) (p : Payload) : f.push p = (false, f) := if_neg (Nat.not_lt.2 h)

theorem push_payloads (hf : f.Inv) (h : f.cnt < 10) (p : Payload) : (f.push p).2.payloads = f.payloads ++ [p] := by
  rw [push_of_room h]
  exact entriesFrom_set_slot f.mem h (inv_iff.1 hf).2 p

theorem push_inv (hf : f.Inv) (p : Payload) : (f.push p).2.Inv := by
  by_cases h : f.cnt < 10
  · rw [push_of_room h, inv_iff]
    exact ⟨h, (congrArg nextIndex (inv_iff.1 hf).2).trans (nextIndex_slot ..)⟩
  · rw [push_of_full (Nat.le_of_not_lt h)]
    exact hf

theorem pop_of_zero (h : f.cnt = 0) : f.pop = (none, f) := if_neg (by omega)

theorem pop_of_pos (h : 0 < f.cnt) :
    f.pop = (some f.mem[f.rp], { f with rp := nextIndex f.rp, cnt := f.cnt - 1 }) := if_pos h

theorem pop_inv (hf : f.Inv) : f.pop.2.Inv := by
  rcases Nat.eq_zero_or_pos f.cnt with h | h
  · rw [pop_of_zero h]
    exact hf
  · obtain ⟨fits, wp⟩ := inv_iff.1 hf
    rw [pop_of_pos h, inv_iff]
    refine ⟨Nat.le_trans (Nat.sub_le ..) fits, ?_⟩
    rw [slot_nextIndex, Nat.sub_add_cancel h]
    exact wp

/-- The entry at the read index is the oldest of the sequence. -/
theorem payloads_eq_cons (h : 0 < f.cnt) : f.payloads = f.mem[f.rp] :: f.pop.2.payloads := by
  obtain ⟨n, hn⟩ := Nat.exists_eq_add_one.2 h
  rw [pop_of_pos h, payloads, payloads, hn]
  rfl

theorem afterReset_inv (mem : Vector Payload 10) : (afterReset mem).Inv := ⟨Nat.zero_le 10, rfl⟩

/-- A push into the registers is Q_PUSH on the sequence they hold. -/
theorem push_refines (hf : f.Inv) {s : State} (hq : f.payloads = s.q) (p : Payload) :
    ∃ t, exec (.qPush p) s = .next t ∧ (f.push p).2.Inv ∧ (f.push p).2.payloads = t.q ∧
      t.outputs = s.outputs ++ [.accepted (f.push p).1] := by
  have length : s.q.length = f.cnt := hq ▸ payloads_length
  by_cases h : f.cnt < 10
  · refine ⟨_, exec_qPush_of_room (length ▸ h) p, push_inv hf p, ?_, ?_⟩
    · rw [push_payloads hf h, hq]
    · rw [push_of_room h]
  · have full := Nat.le_of_not_lt h
    refine ⟨_, exec_qPush_of_full (length ▸ full) p, push_inv hf p, ?_, ?_⟩
    · rw [push_of_full full, hq]
    · rw [push_of_full full]

/-- A pop of the registers is Q_POP on the sequence they hold. -/
theorem pop_refines (hf : f.Inv) {s : State} (hq : f.payloads = s.q) :
    ∃ t, exec .qPop s = .next t ∧ f.pop.2.Inv ∧ f.pop.2.payloads = t.q ∧
      t.outputs = s.outputs ++ [.popped f.pop.1] := by
  rcases Nat.eq_zero_or_pos f.cnt with h | h
  · have empty : s.q = [] := List.length_eq_zero_iff.1 (hq ▸ payloads_length.trans h)
    refine ⟨_, exec_qPop_of_nil empty, pop_inv hf, ?_, ?_⟩
    · rw [pop_of_zero h, hq]
    · rw [pop_of_zero h]
  · refine ⟨_, exec_qPop_of_cons (hq ▸ payloads_eq_cons h), pop_inv hf, rfl, ?_⟩
    rw [pop_of_pos h]

end RegisterQueue

/-- Settles O17: the write index is the slot after the last entry, so a push writes no entry that is queued. -/
theorem registersRefineTheSequence : Obligations.RegistersRefineTheSequence := by
  refine ⟨fun mem => ⟨RegisterQueue.afterReset_inv mem, rfl⟩, fun f s hf hq => ?_⟩
  refine ⟨RegisterQueue.push_refines hf hq, RegisterQueue.pop_refines hf hq, ?_⟩
  have length : s.q.length = f.cnt := hq ▸ RegisterQueue.payloads_length
  rw [State.countQ_toNat (length ▸ hf.1), length]

end Sys2Proof.Machine
end

section
/-! U3 and U4 together: the stream of frames from acceptance to the transmit port (43 R208), and a push beside a turn of
TXP on one clock edge (42 R181). -/

namespace Sys2Proof.Machine

/-! ### The stream of frames under each update -/

theorem State.frameStream_congr {s t : State} (ha : t.pathA = s.pathA) (ho : sentFrames t.outputs = sentFrames s.outputs) :
    t.frameStream = s.frameStream := by
  obtain ⟨hq, ht, hf⟩ := State.pathA_eq_iff.1 ha
  cases hs : s.txState <;> simp_all [State.frameStream]

theorem State.frameStream_emit {s : State} {o : Output} (h : ∀ f, o ≠ .transmit f) :
    (s.emit o).frameStream = s.frameStream :=
  State.frameStream_congr rfl (sentFrames_emit h)

theorem State.frameStream_pushed_of_room {s : State} (h : s.q.length < 10) (p : Payload) :
    (s.pushed p).frameStream = s.frameStream ++ [packetEncode p] := by
  simp [State.pushed_of_room h, State.frameStream]

/-- A fetch moves the oldest queued frame to the pending place. -/
theorem State.frameStream_fetched {s : State} {p : Payload} {rest : List Payload} (ht : s.txState = .standby)
    (hq : s.q = p :: rest) :
    { s with q := rest, txFrame := packetEncode p, txState := .transmit }.frameStream = s.frameStream := by
  simp [State.frameStream, ht, hq]

/-- A send moves the pending frame to those handed over. -/
theorem State.frameStream_sent {s : State} (ht : s.txState = .transmit) (f : Frame) (n : Nat) :
    { s with txState := .standby, txFrame := f, freeIdx := n,
             outputs := s.outputs ++ [Output.transmit s.txFrame, Output.statusToggle] }.frameStream = s.frameStream := by
  simp [State.frameStream, ht, sentFrames_append, sentFrames]

/-! ### What an operation and a step do to the stream -/

/-- Only TX_SEND hands a frame over. -/
theorem exec_keeps_sentFrames {i : Instr} {s t : State} (h : exec i s = .next t) (hi : i ≠ .txSend) :
    sentFrames t.outputs = sentFrames s.outputs := by
  cases exec_effect h with
  | puts i o ho hl hp => exact sentFrames_emit ho.1
  | push p => rw [sentFrames_emit (o := .accepted s.hasRoom) nofun, State.pushed_outputs]
  | pop => rw [sentFrames_emit (o := .popped s.takeOldest.1) nofun, State.takeOldest_outputs]
  | send ht => exact absurd rfl hi
  | sample id raw now b hb hn =>
    rw [sentFrames_append]
    split <;> exact List.append_nil _
  | second ch t hp hx =>
    obtain ⟨-, ho⟩ := token_keeps (s := { s with pendValid := false }) hx
    rw [ho, sentFrames_append]
    split <;> exact List.append_nil _
  | enter i m hm => rw [State.enterMode_outputs]
  | _ => rfl

/-- Every operation but a push, a pop outside U4 and RESET leaves the stream as it was. -/
theorem exec_keeps_frameStream {i : Instr} {s t : State} (h : exec i s = .next t) (hpush : ∀ p, i ≠ .qPush p)
    (hpop : i ≠ .qPop) (hr : i ≠ .reset) : t.frameStream = s.frameStream := by
  cases hA : isPathAOp i with
  | false =>
    have hi : i ≠ .txSend := by
      rintro rfl
      cases hA
    exact State.frameStream_congr (exec_keeps_pathA h hA hr) (exec_keeps_sentFrames h hi)
  | true =>
    cases exec_effect h with
    | push p => exact absurd rfl (hpush p)
    | pop => exact absurd rfl hpop
    | puts i o ho hl hi => exact State.frameStream_emit ho.1
    | stay i hi => rfl
    | fetch p rest ht hq => exact State.frameStream_fetched ht hq
    | send ht => exact State.frameStream_sent ht _ _
    | cleared => exact absurd rfl hr
    | enter i m hm => rcases hm with ⟨rfl, -⟩ | ⟨rfl, -⟩ | ⟨rfl, -⟩ <;> cases hA
    | _ => cases hA

theorem exec_qPush_frameStream {p : Payload} {s t : State} (h : exec (.qPush p) s = .next t) :
    (s.q.length < 10 → t.frameStream = s.frameStream ++ [packetEncode p]) ∧
    (10 ≤ s.q.length → t.frameStream = s.frameStream) := by
  cases h
  rw [State.frameStream_emit (o := .accepted s.hasRoom) nofun]
  exact ⟨fun room => State.frameStream_pushed_of_room room p, fun full => by rw [State.pushed_of_full full]⟩

theorem selected_keeps_frameStream {s u : State} {o : Option Instr} (h : selected s = .ok (o, u)) :
    u.frameStream = s.frameStream := by
  obtain ⟨ins, n, rfl⟩ := selected_same h
  rfl

theorem selected_keeps_q {s u : State} {o : Option Instr} (h : selected s = .ok (o, u)) : u.q = s.q := by
  obtain ⟨ins, n, rfl⟩ := selected_same h
  rfl

/-- What a step selects has its own point at a port; so it is no Q_POP, whose point lies inside the block. -/
theorem point_external_of_selected {s u : State} {i : Instr} (h : selected s = .ok (some i, u)) :
    (encode i).select.external = true := by
  rcases selected_state h with ⟨st, j, -, hx, hd, e⟩ | ⟨-, e, -⟩
  · cases e
    exact point_external_of_decode hx hd
  · obtain ⟨g, -, rfl⟩ := Option.map_eq_some_iff.1 e.symm
    exact congrArg Select.external (txpTurn_selectableAt s.context g).point

/-- What a step makes of the stream is what its operation does: the toggle wire is no part of it. -/
theorem step_frameStream {s t u : State} {i : Instr} (hs : selected s = .ok (some i, u)) (h : step s = .next t) :
    ∃ v, exec i u = .next v ∧ t.frameStream = v.frameStream := by
  rcases step_next h with idle | ⟨j, w, v, hw, hx, ht⟩
  · cases hs.symm.trans idle
  · cases hs.symm.trans hw
    rcases ht with ⟨-, rfl⟩ | ⟨-, rfl⟩
    · exact ⟨t, hx, rfl⟩
    · exact ⟨v, hx, rfl⟩

/-- Settles O16: the selection leaves the stream alone, a push adds its frame at the end where there is room, and U4 only
moves frames from one part of the stream to the next. -/
theorem framesLeaveInOrderOfAcceptance : Obligations.FramesLeaveInOrderOfAcceptance := by
  intro s t u o hs hr h
  rw [← selected_keeps_frameStream hs, ← selected_keeps_q hs]
  cases o with
  | none =>
    have idle : t = u := by
      simp only [step, hs, runSelected] at h
      cases h
      rfl
    exact ⟨nofun, fun _ => by rw [idle]⟩
  | some i =>
    obtain ⟨v, hx, ht⟩ := step_frameStream hs h
    rw [ht]
    by_cases push : ∃ p, i = .qPush p
    · obtain ⟨p, rfl⟩ := push
      obtain ⟨accepted, refused⟩ := exec_qPush_frameStream hx
      refine ⟨fun p' e room => ?_, fun full => refused (full.resolve_left fun ne => ne p rfl)⟩
      cases e
      exact ⟨packetEncode p, exec_pktEnc p s, accepted room⟩
    · have notPush : ∀ p, i ≠ .qPush p := not_exists.1 push
      have notPop : i ≠ .qPop := by
        rintro rfl
        cases point_external_of_selected hs
      have kept : v.frameStream = u.frameStream :=
        exec_keeps_frameStream hx notPush notPop fun e => hr (congrArg some e)
      exact ⟨fun p e => absurd (Option.some.inj e) (notPush p), fun _ => kept⟩

/-! ### A push and a turn of TXP on one edge (R181, R312) -/

theorem step_push {s : State} {p : Payload} {rest : List Stimulus} (h : s.inputs = ⟨.push, p.toList⟩ :: rest) :
    step s = exec (.qPush p) (s.setInputs rest) := by
  have decoded : decode s.context ⟨.push, p.toList⟩ = .ok (.qPush p) := congrArg (Except.map _) (readBytes_toList p)
  rw [step_of_presented (State.presented_of_inputs h) rfl decoded]
  exact wireToggle_quiet rfl _

theorem step_txp {s : State} {g : Bool} {rest : List Stimulus} (h : s.inputs = ⟨.txp, [byteOfBit g]⟩ :: rest) :
    step s = exec (txpTurn s.txState s.q.isEmpty g) (s.setInputs rest) := by
  rw [step_of_presented (State.presented_of_inputs h) rfl (decode_txp _ g)]
  exact wireToggle_quiet (pulsesToggle_txpTurn ..) _

theorem exec_txPoll {s : State} (ht : s.txState = .standby) (hq : s.q = []) : exec .txPoll s = .next s := by
  show execTxPoll s = _
  simp [execTxPoll, State.takeOldest, ht, hq]

theorem exec_txFetch {s : State} (ht : s.txState = .standby) {p : Payload} {rest : List Payload} (hq : s.q = p :: rest) :
    exec .txFetch s = .next { s with q := rest, txFrame := packetEncode p, txState := .transmit } := by
  show execTxFetch s = _
  simp [execTxFetch, State.takeOldest, ht, hq]

/-- An edge of two steps. -/
theorem edge_of_two_steps {s u v : State} {e : Edge} {a b : Stimulus} (he : edgeSequence s e = [a, b])
    (ha : step (s.setInputs (a :: b :: s.inputs)) = .next u) (hb : step u = .next v) : edge s e = .next v := by
  simp only [edge, he, List.length_cons, List.length_nil, List.cons_append, List.nil_append, Host.Core.run, ha, hb]

/-- What an edge with a push and a turn of TXP asserts. -/
def pushAndTurn (p : Payload) (g : Bool) (now : Nat) : Edge := ⟨false, some p, some g, none, [], [], now, false⟩

theorem edgeSequence_pushAndTurn (s : State) (p : Payload) (g : Bool) (now : Nat) :
    edgeSequence s (pushAndTurn p g now) =
      queueOrder s.q.isEmpty [⟨.push, p.toList⟩] [⟨.txp, [byteOfBit g]⟩] := by
  simp [edgeSequence, pushAndTurn]

/-- On an empty queue U4 polls and the edge is the push alone. -/
theorem edge_pushAndTurn_of_nil {s : State} (ht : s.txState = .standby) (hq : s.q = []) (p : Payload) (g : Bool)
    (now : Nat) : edge s (pushAndTurn p g now) = exec (.qPush p) s := by
  have order : edgeSequence s (pushAndTurn p g now) = [⟨.txp, [byteOfBit g]⟩, ⟨.push, p.toList⟩] := by
    rw [edgeSequence_pushAndTurn, hq]
    rfl
  rw [exec_qPush]
  refine edge_of_two_steps (u := s.setInputs (⟨.push, p.toList⟩ :: s.inputs)) order ?_ (step_push rfl)
  rw [step_txp rfl, State.setInputs_txState, State.setInputs_q, ht, hq]
  exact exec_txPoll ht hq

/-- With a payload queued the push comes first, and U4 fetches from the queue the push leaves. -/
theorem edge_pushAndTurn_of_cons {s u : State} {p a : Payload} {rest : List Payload} {g : Bool} (hq : s.q ≠ [])
    (hp : exec (.qPush p) (s.setInputs (⟨.txp, [byteOfBit g]⟩ :: s.inputs)) = .next u) (ht : u.txState = .standby)
    (hu : u.q = a :: rest) (hi : u.inputs = ⟨.txp, [byteOfBit g]⟩ :: s.inputs) (now : Nat) :
    edge s (pushAndTurn p g now) =
      .next { u with q := rest, txFrame := packetEncode a, txState := .transmit, inputs := s.inputs } := by
  have order : edgeSequence s (pushAndTurn p g now) = [⟨.push, p.toList⟩, ⟨.txp, [byteOfBit g]⟩] := by
    rw [edgeSequence_pushAndTurn, Bool.eq_false_iff.2 (mt List.isEmpty_iff.1 hq)]
    rfl
  refine edge_of_two_steps order ((step_push rfl).trans hp) ?_
  rw [step_txp hi, ht, hu]
  exact exec_txFetch (s := u.setInputs s.inputs) ht hu

/-- Settles O56: the three cases of the queue before the edge. -/
theorem pushAndPopOnOneEdge : Obligations.PushAndPopOnOneEdge := by
  intro s p g now ht _
  cases hq : s.q with
  | nil =>
    refine ⟨_, (edge_pushAndTurn_of_nil ht hq p g now).trans (exec_qPush_of_room (by simp [hq]) p), rfl, fun _ => ?_,
      nofun⟩
    exact ⟨congrArg (· ++ [p]) hq, ht, rfl⟩
  | cons a rest =>
    have nonempty : s.q ≠ [] := hq ▸ List.cons_ne_nil a rest
    have length : s.q.length = (a :: rest).length := congrArg List.length hq
    rcases Nat.lt_or_ge s.q.length 10 with room | full
    · have accepted := exec_qPush_of_room (s := s.setInputs (⟨.txp, [byteOfBit g]⟩ :: s.inputs)) room p
      refine ⟨_, edge_pushAndTurn_of_cons nonempty accepted ht (congrArg (· ++ [p]) hq) rfl now, rfl, nofun, ?_⟩
      rintro _ _ ⟨⟩
      exact ⟨rfl, ⟨_, exec_pktEnc a s, rfl⟩, fun _ => ⟨rfl, rfl⟩, fun ten => by omega⟩
    · have refused := exec_qPush_of_full (s := s.setInputs (⟨.txp, [byteOfBit g]⟩ :: s.inputs)) full p
      refine ⟨_, edge_pushAndTurn_of_cons nonempty refused ht hq rfl now, rfl, nofun, ?_⟩
      rintro _ _ ⟨⟩
      exact ⟨rfl, ⟨_, exec_pktEnc a s, rfl⟩, fun room => by omega, fun _ => ⟨rfl, rfl⟩⟩

end Sys2Proof.Machine
end

section
/-! U4 TransmitPipeline (43_transmit_pipeline.md): what each of its four operations does and when it has no step, the turn
of TXP (R200), and what a step hands over (R76, R207). -/

namespace Sys2Proof.Machine

variable {s : State}

/-! ### The four operations (R201 to R204) -/

theorem exec_txSend (ht : s.txState = .transmit) :
    exec .txSend s = .next { s with txState := .standby, txFrame := Config.freeFrame s.freeIdx, freeIdx := s.freeIdx + 1,
                                    outputs := s.outputs ++ [.transmit s.txFrame, .statusToggle] } := by
  show execTxSend s = _
  simp [execTxSend, ht, State.emit, State.drawFree]

theorem exec_txHold (ht : s.txState = .transmit) : exec .txHold s = .next s := by
  show execTxHold s = _
  simp only [execTxHold, ht]

/-- A completed operation is no refused one. -/
theorem ne_refused_of_next {o : Host.Outcome State Fault Refusal} {t : State} (h : o = .next t) (r : Refusal) :
    o ≠ .refused r := by
  rw [h]
  nofun

theorem exec_txPoll_refused_iff :
    exec .txPoll s = .refused (.notEnabled "TX_POLL") ↔ ¬ (s.txState = .standby ∧ s.q = []) :=
  ⟨fun h ⟨ht, hq⟩ => ne_refused_of_next (exec_txPoll ht hq) _ h, fun h => if_neg h⟩

theorem exec_txFetch_refused_iff :
    exec .txFetch s = .refused (.notEnabled "TX_FETCH") ↔ ¬ (s.txState = .standby ∧ s.q ≠ []) := by
  constructor
  · rintro h ⟨ht, hq⟩
    obtain ⟨p, rest, hq⟩ := List.exists_cons_of_ne_nil hq
    exact ne_refused_of_next (exec_txFetch ht hq) _ h
  · intro h
    show execTxFetch s = _
    cases ht : s.txState with
    | transmit => simp only [execTxFetch, ht]
    | standby =>
      have hq : s.q = [] := not_not.1 fun hq => h ⟨ht, hq⟩
      simp only [execTxFetch, ht, State.takeOldest, hq]

theorem txState_ne_transmit_iff : s.txState ≠ .transmit ↔ s.txState = .standby := by
  cases s.txState <;> decide

theorem exec_txSend_refused_iff :
    exec .txSend s = .refused (.notEnabled "TX_SEND") ↔ s.txState ≠ .transmit := by
  refine ⟨fun h ht => ne_refused_of_next (exec_txSend ht) _ h, fun h => ?_⟩
  show execTxSend s = _
  simp only [execTxSend, txState_ne_transmit_iff.1 h]

theorem exec_txHold_refused_iff :
    exec .txHold s = .refused (.notEnabled "TX_HOLD") ↔ s.txState ≠ .transmit := by
  refine ⟨fun h ht => ne_refused_of_next (exec_txHold ht) _ h, fun h => ?_⟩
  show execTxHold s = _
  simp only [execTxHold, txState_ne_transmit_iff.1 h]

theorem State.txReq_iff (s : State) : s.txReq = true ↔ s.txState = .transmit := beq_iff_eq

/-- Settles O18, by the equation and the refusal of each operation. -/
theorem pipelineTransitionTable : Obligations.PipelineTransitionTable := by
  intro s
  refine ⟨fun ht => ?_, s.txReq_iff.2, fun h => exec_txPoll_refused_iff.2 (not_and_or.2 h), fun h => ?_,
    fun ht => ⟨exec_txSend_refused_iff.2 ht, exec_txHold_refused_iff.2 ht⟩, exec_txPoll, fun p rest ht hq => ?_,
    fun ht => ⟨_, _, exec_txSend ht⟩, exec_txHold⟩
  · exact Bool.eq_false_iff.2 (mt s.txReq_iff.1 (txState_ne_transmit_iff.2 ht))
  · exact exec_txFetch_refused_iff.2 (not_and_or.2 (h.imp_right not_not.2))
  · exact ⟨packetEncode p, exec_pktEnc p s, exec_txFetch ht hq⟩

/-! ### The turn of TXP (R200) -/

theorem txpTurn_of_standby (qEmpty gnt : Bool) :
    txpTurn .standby qEmpty gnt = if qEmpty then .txPoll else .txFetch := by
  cases qEmpty <;> rfl

theorem txpTurn_of_transmit (qEmpty gnt : Bool) : txpTurn .transmit qEmpty gnt = if gnt then .txSend else .txHold := by
  cases gnt <;> rfl

theorem txpTurn_eq_txSend_iff {t : TxState} {qEmpty gnt : Bool} :
    txpTurn t qEmpty gnt = .txSend ↔ t = .transmit ∧ gnt = true := by
  cases t with
  | standby => cases qEmpty <;> simp [txpTurn]
  | transmit => cases gnt <;> simp [txpTurn]

/-- The operation TXP's turn selects completes. -/
theorem exec_txpTurn_completes (s : State) (gnt : Bool) :
    ∃ t, exec (txpTurn s.txState s.q.isEmpty gnt) s = .next t := by
  cases ht : s.txState with
  | standby =>
    cases hq : s.q with
    | nil => exact ⟨s, exec_txPoll ht hq⟩
    | cons p rest => exact ⟨_, exec_txFetch ht hq⟩
  | transmit =>
    cases gnt with
    | true => exact ⟨_, exec_txSend ht⟩
    | false => exact ⟨s, exec_txHold ht⟩

theorem exec_txPoll_or_txHold_keeps {i : Instr} {t : State} (hi : i = .txPoll ∨ i = .txHold) (h : exec i s = .next t) :
    t = s := by
  rcases hi with rfl | rfl <;>
    cases exec_effect h with
    | stay _ _ => rfl
    | puts _ _ _ _ hp => cases hp
    | enter _ _ hm => simp at hm

/-- Settles O19: an operation is enabled where it is not refused, and the turn selects by the state, the queue and the
grant. -/
theorem txpAlwaysHasExactlyOneStep : Obligations.TxpAlwaysHasExactlyOneStep := by
  refine ⟨rfl, fun s => ⟨exec_txPoll_refused_iff.not_left, exec_txFetch_refused_iff.not_left,
    exec_txSend_refused_iff.not_left, exec_txHold_refused_iff.not_left, fun g => ?_⟩⟩
  obtain ⟨t, hx⟩ := exec_txpTurn_completes s g
  refine ⟨_, t, decode_txp s.context g, hx, fun ht => ?_, fun ht => ?_, fun hi => exec_txPoll_or_txHold_keeps hi hx⟩
  · show txpTurn s.txState s.q.isEmpty g = _
    rw [ht, txpTurn_of_standby]
    simp only [List.isEmpty_iff]
  · show txpTurn s.txState s.q.isEmpty g = _
    rw [ht, txpTurn_of_transmit]

/-! ### What a step hands over (R76, R207) -/

/-- Only TX_SEND signals a status toggle. -/
theorem exec_keeps_statusToggles {i : Instr} {t : State} (h : exec i s = .next t) (hi : i ≠ .txSend) :
    timesEmitted .statusToggle t.outputs = timesEmitted .statusToggle s.outputs := by
  have put {os : List Output} (hno : .statusToggle ∉ os) :
      timesEmitted .statusToggle (s.outputs ++ os) = timesEmitted .statusToggle s.outputs := by
    rw [timesEmitted_append, timesEmitted, timesEmitted, List.count_eq_zero.2 hno, Nat.add_zero]
  cases exec_effect h with
  | puts i o ho hl hp => exact put (List.mem_singleton.not.2 ho.2.symm)
  | push p =>
    rw [State.emit_outputs, State.pushed_outputs]
    exact put (by simp)
  | pop =>
    rw [State.emit_outputs, State.takeOldest_outputs]
    exact put (by simp)
  | send ht => exact absurd rfl hi
  | sample id raw now b hb hn => exact put (by split <;> simp)
  | second ch t hp hx =>
    obtain ⟨-, ho⟩ := token_keeps (s := { s with pendValid := false }) hx
    rw [ho]
    exact put (by split <;> simp)
  | enter i m hm => rw [State.enterMode_outputs]
  | _ => rfl

theorem eq_byteOfBit_of_readBit {ws : List Byte} {b : Bool} (h : readBit ws = .ok b) : ws = [byteOfBit b] := by
  match ws with
  | [] => cases h
  | [w] =>
    simp only [readBit, bitOf] at h
    split at h
    next hw =>
      cases h
      rw [hw]
      rfl
    next =>
      split at h
      next hw =>
        cases h
        rw [hw]
        rfl
      next => cases h
  | _ :: _ :: _ => cases h

/-- The only stimulus that selects TX_SEND is a granted turn in Transmit. -/
theorem decode_eq_txSend {c : Context} {st : Stimulus} (h : decode c st = .ok .txSend) :
    c.txState = .transmit ∧ st = ⟨.txp, [1#8]⟩ := by
  obtain ⟨p, ws⟩ := st
  obtain rfl : .txp = p := (decode_selectableAt h).point
  cases hr : readBit ws with
  | error e => simp [decode, hr, Except.map] at h
  | ok g =>
    have turn : txpTurn c.txState c.qEmpty g = .txSend := by simpa [decode, hr, Except.map] using h
    obtain ⟨ht, rfl⟩ := txpTurn_eq_txSend_iff.1 turn
    rw [eq_byteOfBit_of_readBit hr]
    exact ⟨ht, rfl⟩

/-- TX_SEND is selected in Transmit by a presented grant, or with nothing presented by the free value. -/
theorem selected_eq_txSend {u : State} (h : selected s = .ok (some .txSend, u)) :
    s.txState = .transmit ∧
    (s.presented = some (⟨.txp, [1#8]⟩, u) ∨ (s.presented = none ∧ Config.unscheduledTurn s.freeIdx = some true)) := by
  rcases selected_state h with ⟨st, i, hp, -, hd, e⟩ | ⟨hp, e, -⟩
  · cases e
    obtain ⟨ht, rfl⟩ := decode_eq_txSend hd
    exact ⟨ht, .inl hp⟩
  · obtain ⟨g, hg, turn⟩ := Option.map_eq_some_iff.1 e.symm
    obtain ⟨ht, rfl⟩ := txpTurn_eq_txSend_iff.1 turn
    exact ⟨ht, .inr ⟨hp, hg⟩⟩

/-- A step whose selection is known runs it; the toggle wire writes `half` alone. -/
theorem step_of_selected {t u : State} {i : Instr} (hs : selected s = .ok (some i, u)) (h : step s = .next t) :
    ∃ v, exec i u = .next v ∧ ∃ half, t = { v with half := half } := by
  rcases step_next h with idle | ⟨j, w, v, hw, hx, ht⟩
  · cases hs.symm.trans idle
  · cases hs.symm.trans hw
    rcases ht with ⟨-, rfl⟩ | ⟨-, rfl⟩
    · exact ⟨t, hx, t.half, rfl⟩
    · exact ⟨v, hx, _, rfl⟩

theorem step_of_selected_none {t u : State} (hs : selected s = .ok (none, u)) (h : step s = .next t) : t = u := by
  simp only [step, hs, runSelected] at h
  cases h
  rfl

theorem step_txSend {t u : State} (hs : selected s = .ok (some .txSend, u)) (h : step s = .next t) :
    t.txState = .standby ∧ t.outputs = s.outputs ++ [.transmit s.txFrame, .statusToggle] := by
  obtain ⟨ht, -⟩ := selected_eq_txSend hs
  obtain ⟨v, hx, half, rfl⟩ := step_of_selected hs h
  obtain ⟨ins, n, rfl⟩ := selected_same hs
  rw [exec_txSend (s := { s with inputs := ins, freeIdx := n }) ht] at hx
  cases hx
  exact ⟨rfl, rfl⟩

/-- Settles O20: TX_SEND is selected under the lock alone, and of all operations it alone hands over and toggles. -/
theorem transmitOnlyUnderTheLock : Obligations.TransmitOnlyUnderTheLock := by
  intro s t u o hs h
  refine ⟨?_, fun ho => ?_⟩
  · rintro rfl
    obtain ⟨ht, lock⟩ := selected_eq_txSend hs
    obtain ⟨ends, puts⟩ := step_txSend hs h
    exact ⟨ht, ends, puts, lock⟩
  · have same : u.outputs = s.outputs := by
      obtain ⟨ins, n, rfl⟩ := selected_same hs
      rfl
    rw [← same]
    cases o with
    | none => simp only [step_of_selected_none hs h, and_self]
    | some i =>
      have hi : i ≠ .txSend := fun e => ho (congrArg some e)
      obtain ⟨v, hx, half, rfl⟩ := step_of_selected hs h
      have operation := And.intro (exec_keeps_sentFrames hx hi) (exec_keeps_statusToggles hx hi)
      exact operation

end Sys2Proof.Machine
end

section
/-! Unbounded runs of U4 (43 R211): runs in which an agent is starved, and what fairness of TXP and of the lock gives. -/

namespace Sys2Proof.Machine

/-! ### An unbounded run from a step-by-step invariant -/

/-- The state a step leads to, where there is one. -/
def stepped (s : State) : State :=
  match step s with
  | .next t => t
  | .fault _ => s
  | .refused _ => s

theorem stepped_of_next {s t : State} (h : step s = .next t) : stepped s = t := by
  simp only [stepped, h]

/-- Where what holds after `n` steps allows a next step and holds after it, there is an unbounded run along which it
holds. -/
theorem exists_run {P : Nat → State → Prop} (hstep : ∀ n s, P n s → ∃ t, step s = .next t ∧ P (n + 1) t) {s : State}
    (hs : P 0 s) : ∃ r : Nat → State, r 0 = s ∧ IsRun r ∧ ∀ n, P n (r n) := by
  have holds : ∀ n, P n (stepped^[n] s) := by
    intro n
    induction n with
    | zero => exact hs
    | succ n ih =>
      obtain ⟨t, ht, kept⟩ := hstep n _ ih
      rw [Function.iterate_succ_apply', stepped_of_next ht]
      exact kept
  refine ⟨fun n => stepped^[n] s, rfl, fun n => ?_, holds⟩
  obtain ⟨t, ht, -⟩ := hstep n _ (holds n)
  show step (stepped^[n] s) = .next (stepped^[n + 1] s)
  rw [Function.iterate_succ_apply', stepped_of_next ht, ht]

/-! ### The lock withheld, and TXP starved -/

/-- `t` after `n` steps from `s` under an environment that pushes `p` and withholds the lock, over and over: every other
step was a push. -/
structure HeldBack (s : State) (p : Payload) (n : Nat) (t : State) : Prop where
  transmit : t.txState = .transmit
  frame : t.txFrame = s.txFrame
  sent : sentFrames t.outputs = sentFrames s.outputs
  queued : s.q <+: t.q
  fills : min 10 ((n + 1) / 2) ≤ t.q.length
  cycle : t.cycle = [⟨.push, p.toList⟩, ⟨.txp, [0#8]⟩]
  inputs : (n % 2 = 0 ∧ t.inputs = []) ∨ (n % 2 = 1 ∧ t.inputs = [⟨.txp, [0#8]⟩])

theorem State.prefix_pushed (s : State) (p : Payload) : s.q <+: (s.pushed p).q := by
  rw [State.pushed_q]
  split
  · exact List.prefix_append s.q [p]
  · exact List.prefix_rfl

theorem State.length_pushed (s : State) (p : Payload) : min 10 (s.q.length + 1) ≤ (s.pushed p).q.length := by
  rcases Nat.lt_or_ge s.q.length 10 with room | full
  · simp [State.pushed_of_room room]
  · rw [State.pushed_of_full full]
    omega

theorem step_push_of_cycle {s : State} {p : Payload} {rest : List Stimulus} (hi : s.inputs = [])
    (hc : s.cycle = ⟨.push, p.toList⟩ :: rest) : step s = exec (.qPush p) (s.setInputs rest) := by
  have decoded : decode s.context ⟨.push, p.toList⟩ = .ok (.qPush p) := congrArg (Except.map _) (readBytes_toList p)
  rw [step_of_presented (State.presented_of_cycle hi hc) rfl decoded]
  exact wireToggle_quiet rfl _

theorem step_txp_held {s : State} (ht : s.txState = .transmit) (hi : s.inputs = [⟨.txp, [0#8]⟩]) :
    step s = .next (s.setInputs []) := by
  rw [step_txp (g := false) hi, ht, txpTurn_of_transmit]
  exact exec_txHold (s := s.setInputs []) ht

theorem HeldBack.step {s t : State} {p : Payload} {n : Nat} (h : HeldBack s p n t) :
    ∃ u, step t = .next u ∧ HeldBack s p (n + 1) u := by
  have fills := h.fills
  rcases h.inputs with ⟨even, hi⟩ | ⟨odd, hi⟩
  · refine ⟨_, (step_push_of_cycle hi h.cycle).trans (exec_qPush p _), ?_⟩
    have grows := (t.setInputs [⟨.txp, [0#8]⟩]).prefix_pushed p
    have longer := (t.setInputs [⟨.txp, [0#8]⟩]).length_pushed p
    exact
      { transmit := (State.pushed_txState _ p).trans h.transmit
        frame := (State.pushed_txFrame _ p).trans h.frame
        sent := by
          rw [sentFrames_emit (o := .accepted _) nofun, State.pushed_outputs]
          exact h.sent
        queued := h.queued.trans grows
        fills := by
          rw [State.setInputs_q] at longer
          rw [State.emit_q]
          omega
        cycle := (State.pushed_cycle _ p).trans h.cycle
        inputs := .inr ⟨by omega, State.pushed_inputs _ p⟩ }
  · refine ⟨_, step_txp_held h.transmit hi, ?_⟩
    exact
      { h with
        fills := by
          rw [State.setInputs_q]
          omega
        inputs := .inl ⟨by omega, rfl⟩ }

/-- `t` after some toggles from `s`, with nothing but toggles to come. -/
structure OnlyToggled (s t : State) : Prop where
  inputs : t.inputs = []
  cycle : t.cycle = [⟨.toggle, []⟩]
  q : t.q = s.q
  txState : t.txState = s.txState
  outputs : t.outputs = s.outputs

theorem selected_toggle {t : State} (hi : t.inputs = []) (hc : t.cycle = [⟨.toggle, []⟩]) :
    selected t = .ok (some .toggleHalf, t.setInputs []) := by
  simp only [selected, State.presented_of_cycle hi hc]
  rfl

theorem OnlyToggled.step {s t : State} (h : OnlyToggled s t) : ∃ u, step t = .next u ∧ OnlyToggled s u := by
  refine ⟨{ t with inputs := [], half := otherHalf t.half }, ?_, { h with inputs := rfl }⟩
  rw [Machine.step, selected_toggle h.inputs h.cycle]
  rfl

/-- A turn of TXP has the point of TXP. -/
theorem OnlyToggled.not_txpTurns {s t : State} (h : OnlyToggled s t) : ¬ t.txpTurns := by
  rintro ⟨g, u, hs⟩
  have turn : some .toggleHalf = some (txpTurn t.txState t.q.isEmpty g) :=
    congrArg Prod.fst (Except.ok.inj ((selected_toggle h.inputs h.cycle).symm.trans hs))
  have point : (encode (txpTurn t.txState t.q.isEmpty g)).select = .txp := (txpTurn_selectableAt t.context g).point
  rw [← Option.some.inj turn] at point
  cases point

/-- Settles O21: each environment keeps its invariant and always has a next step; twenty steps push ten times. -/
theorem noFairnessIsBuiltIn : Obligations.NoFairnessIsBuiltIn := by
  constructor
  · intro s p ht hi hc
    have start : HeldBack s p 0 s := ⟨ht, rfl, rfl, List.prefix_rfl, Nat.zero_le _, hc, .inl ⟨rfl, hi⟩⟩
    obtain ⟨r, h0, hrun, held⟩ := exists_run (fun _ _ => HeldBack.step) start
    exact ⟨r, h0, hrun, (held 20).fills, fun n => ⟨(held n).transmit, (held n).frame, (held n).sent, (held n).queued⟩⟩
  · intro s hi hc
    have start : OnlyToggled s s := ⟨hi, hc, rfl, rfl, rfl⟩
    obtain ⟨r, h0, hrun, toggled⟩ := exists_run (P := fun _ => OnlyToggled s) (fun _ _ => OnlyToggled.step) start
    exact ⟨r, h0, hrun, fun n =>
      ⟨(toggled n).not_txpTurns, (toggled n).q, (toggled n).txState, (toggled n).outputs⟩⟩

/-! ### What fairness gives (R211) -/

/-- The number of frames handed over so far. -/
abbrev State.sentCount (s : State) : Nat := (sentFrames s.outputs).length

theorem State.sentFrames_prefix_frameStream (s : State) : sentFrames s.outputs <+: s.frameStream := by
  rw [State.frameStream, List.append_assoc]
  exact List.prefix_append _ _

/-- What is owed and not handed over is pending or queued. -/
theorem State.transmit_or_queued_of_owed {s : State} (h : s.sentCount < s.frameStream.length) :
    s.txState = .transmit ∨ s.txState = .standby ∧ s.q ≠ [] := by
  cases ht : s.txState with
  | transmit => exact .inl rfl
  | standby =>
    refine .inr ⟨rfl, fun hq => ?_⟩
    simp [State.frameStream, ht, hq] at h

/-- A step but a RESET only appends to the stream of frames. -/
theorem step_extends_frameStream {s t : State} (h : step s = .next t) (hs : ∀ u, selected s ≠ .ok (some .reset, u)) :
    s.frameStream <+: t.frameStream := by
  obtain ⟨o, u, hu⟩ : ∃ o u, selected s = .ok (o, u) := by
    rcases step_next h with idle | ⟨i, u, -, hu, -⟩
    · exact ⟨_, _, idle⟩
    · exact ⟨_, _, hu⟩
  obtain ⟨accepted, same⟩ := framesLeaveInOrderOfAcceptance s t u o hu (fun e => hs u (e ▸ hu)) h
  by_cases push : ∃ p, o = some (.qPush p) ∧ s.q.length < 10
  · obtain ⟨p, ho, room⟩ := push
    obtain ⟨f, -, appended⟩ := accepted p ho room
    rw [appended]
    exact List.prefix_append _ _
  · rw [same]
    by_cases room : s.q.length < 10
    · exact .inl fun p ho => push ⟨p, ho, room⟩
    · exact .inr (Nat.le_of_not_lt room)

theorem step_extends_sentFrames {s t : State} (h : step s = .next t) :
    sentFrames s.outputs <+: sentFrames t.outputs := by
  obtain ⟨-, os, grown, -⟩ := parametersStayAndOutputsGrow s t h
  rw [grown, sentFrames_append]
  exact List.prefix_append _ _

/-- A turn of TXP in Standby with a payload queued is a fetch. -/
theorem step_fetches {s t : State} (ht : s.txState = .standby) (hq : s.q ≠ []) (turn : s.txpTurns)
    (h : step s = .next t) : t.txState = .transmit := by
  obtain ⟨g, u, hs⟩ := turn
  obtain ⟨p, rest, hq⟩ := List.exists_cons_of_ne_nil hq
  rw [ht, hq] at hs
  obtain ⟨v, hx, half, rfl⟩ := step_of_selected (i := .txFetch) hs h
  obtain ⟨ins, n, rfl⟩ := selected_same hs
  rw [exec_txFetch (s := { s with inputs := ins, freeIdx := n }) ht hq] at hx
  cases hx
  rfl

section
variable {r : Nat → State} (hrun : IsRun r)
include hrun

theorem IsRun.sentCount_mono : Monotone fun n => (r n).sentCount :=
  monotone_nat_of_le_succ fun n => (step_extends_sentFrames (hrun n)).length_le

theorem IsRun.frameStream_prefix (hr : ∀ n u, selected (r n) ≠ .ok (some .reset, u)) {n m : Nat} (h : n ≤ m) :
    (r n).frameStream <+: (r m).frameStream :=
  Nat.rel_of_forall_rel_succ_of_le (f := fun n => (r n).frameStream) (· <+: ·)
    (fun n => step_extends_frameStream (hrun n) (hr n)) h

theorem IsRun.sends_of_transmit (hlock : LockIsFair r) {n : Nat} (ht : (r n).txState = .transmit) :
    ∃ m, n ≤ m ∧ (r n).sentCount < (r m).sentCount := by
  obtain ⟨m, u, hnm, hs⟩ := hlock n ((r n).txReq_iff.2 ht)
  have before : (r n).sentCount ≤ (r m).sentCount := hrun.sentCount_mono hnm
  have sent : (r (m + 1)).sentCount = (r m).sentCount + 1 := by
    obtain ⟨-, puts⟩ := step_txSend hs (hrun m)
    rw [State.sentCount, puts, sentFrames_append, List.length_append]
    rfl
  exact ⟨m + 1, by omega, by omega⟩

/-- While a frame is owed, TXP's next turn finds it in Transmit or fetches it, and then the lock is granted. -/
theorem IsRun.sends_of_owed (hr : ∀ n u, selected (r n) ≠ .ok (some .reset, u)) (hturn : TxpIsFair r)
    (hlock : LockIsFair r) {n : Nat} (owed : (r n).sentCount < (r n).frameStream.length) :
    ∃ m, n ≤ m ∧ (r n).sentCount < (r m).sentCount := by
  obtain ⟨m, hnm, turn⟩ := hturn n
  by_cases more : (r n).sentCount < (r m).sentCount
  · exact ⟨m, hnm, more⟩
  have stillOwed : (r m).sentCount < (r m).frameStream.length :=
    ((Nat.le_of_not_lt more).trans_lt owed).trans_le (hrun.frameStream_prefix hr hnm).length_le
  obtain ⟨k, hmk, ht⟩ : ∃ k, m ≤ k ∧ (r k).txState = .transmit := by
    rcases State.transmit_or_queued_of_owed stillOwed with ht | ⟨ht, hq⟩
    · exact ⟨m, le_rfl, ht⟩
    · exact ⟨m + 1, m.le_succ, step_fetches ht hq turn (hrun m)⟩
  obtain ⟨l, hkl, sent⟩ := hrun.sends_of_transmit hlock ht
  exact ⟨l, hnm.trans (hmk.trans hkl), (hrun.sentCount_mono (hnm.trans hmk)).trans_lt sent⟩

/-- Any number of the frames owed at a time is handed over at some later time. -/
theorem IsRun.sentCount_reaches (hr : ∀ n u, selected (r n) ≠ .ok (some .reset, u)) (hturn : TxpIsFair r)
    (hlock : LockIsFair r) (n k : Nat) (hk : k ≤ (r n).frameStream.length) : ∃ m, n ≤ m ∧ k ≤ (r m).sentCount := by
  induction k with
  | zero => exact ⟨n, le_rfl, Nat.zero_le _⟩
  | succ k ih =>
    obtain ⟨m, hnm, reached⟩ := ih (Nat.le_of_succ_le hk)
    by_cases more : k < (r m).sentCount
    · exact ⟨m, hnm, more⟩
    have owed : (r m).sentCount < (r m).frameStream.length :=
      ((Nat.le_of_not_lt more).trans_lt hk).trans_le (hrun.frameStream_prefix hr hnm).length_le
    obtain ⟨l, hml, sent⟩ := hrun.sends_of_owed hr hturn hlock owed
    exact ⟨l, hnm.trans hml, reached.trans_lt sent⟩

end

/-- Settles O22: once as many frames are handed over as were owed, they are those, for both begin the later stream. -/
theorem fairRunsTransmitEverything : Obligations.FairRunsTransmitEverything := by
  intro r hrun hr hturn hlock n
  obtain ⟨m, hnm, reached⟩ := hrun.sentCount_reaches hr hturn hlock n _ le_rfl
  exact ⟨m, hnm, List.prefix_of_prefix_length_le (hrun.frameStream_prefix hr hnm)
    (r m).sentFrames_prefix_frameStream reached⟩

end Sys2Proof.Machine
end

section
/-! U6 DebouncedInput (44_debounced_input.md): what each of its three operations does and when it has no step, the
button it is confined to, what becomes of a press counter, and a sample presented to a step. -/

namespace Sys2Proof.Machine

/-! ### One button's PressState -/

section
variable {s : State} {id : Nat} {b : PressState}

theorem State.buttons_set_get_self (hb : s.buttons[id]? = some b) (c : PressState) :
    (s.buttons.set id c)[id]? = some c :=
  State.setButton_get_self (List.getElem?_eq_some_iff.1 hb).1

theorem State.buttons_set_get_other {other : Nat} (h : other ≠ id) (c : PressState) :
    (s.buttons.set id c)[other]? = s.buttons[other]? :=
  State.setButton_get_other h

/-- Writing back what a button holds changes nothing. -/
theorem State.buttons_set_same (hb : s.buttons[id]? = some b) : s.buttons.set id b = s.buttons := by
  obtain ⟨hid, rfl⟩ := List.getElem?_eq_some_iff.1 hb
  exact List.set_getElem_self hid

theorem State.isAsserted_iff {a : Bool} (ha : s.build.assertedLevel[id]? = some a) (raw : Bool) :
    s.isAsserted id raw = true ↔ raw = a := by
  rw [State.isAsserted, ha, beq_iff_eq, Option.some.injEq, eq_comm]

theorem State.pressRegisters_eq (hb : s.buttons[id]? = some b) (raw : Bool) (now : Nat) :
    s.pressRegisters id raw now = registersPress s.build.debounceWindow (s.isAsserted id raw) b now := by
  simp [State.pressRegisters, hb]

theorem registersPress_iff {window now : Nat} {asserted : Bool} :
    registersPress window asserted b now = true ↔
      now - b.lastTime > window ∧ b.pressed = false ∧ asserted = true := by
  simp [registersPress, and_assoc]

theorem registersPress_of_pressed (h : b.pressed = true) (window now : Nat) (asserted : Bool) :
    registersPress window asserted b now = false := by
  simp [registersPress, h]

/-- PressState after a sample that registers a press (R227, the first branch). -/
theorem PressState.sampled_of_press {window now : Nat} {asserted : Bool}
    (h : registersPress window asserted b now = true) :
    b.sampled window asserted now = ⟨now, true, b.count + 1⟩ := by
  simp [PressState.sampled, h]

/-- PressState after any other sample: a level that is not asserted releases the button. -/
theorem PressState.sampled_of_no_press {window now : Nat} {asserted : Bool}
    (h : registersPress window asserted b now = false) :
    b.sampled window asserted now = ⟨now, asserted && b.pressed, b.count⟩ := by
  cases asserted <;> simp [PressState.sampled, h]

/-! ### The three operations -/

/-- DB_SAMPLE no earlier than the last sample (R227). -/
theorem exec_dbSample {now : Nat} (hb : s.buttons[id]? = some b) (hn : b.lastTime ≤ now) (raw : Bool) :
    exec (.dbSample id raw now) s =
      .next { s with
        buttons := s.buttons.set id (b.sampled s.build.debounceWindow (s.isAsserted id raw) now)
        outputs := s.outputs ++ if s.pressRegisters id raw now then [.pressEvent id] else [] } := by
  show execDbSample id raw now s = _
  simp only [execDbSample, hb, if_neg (Nat.not_lt.2 hn)]
  cases s.pressRegisters id raw now with
  | true => rfl
  | false => simp [State.setButton]

theorem exec_dbSample_of_press {raw : Bool} {now : Nat} (hb : s.buttons[id]? = some b) (hn : b.lastTime ≤ now)
    (hp : s.pressRegisters id raw now = true) :
    exec (.dbSample id raw now) s =
      .next { s with buttons := s.buttons.set id ⟨now, true, b.count + 1⟩,
                     outputs := s.outputs ++ [.pressEvent id] } := by
  rw [exec_dbSample hb hn, hp, PressState.sampled_of_press (State.pressRegisters_eq hb raw now ▸ hp)]
  rfl

theorem exec_dbSample_of_no_press {raw : Bool} {now : Nat} (hb : s.buttons[id]? = some b) (hn : b.lastTime ≤ now)
    (hp : s.pressRegisters id raw now = false) :
    exec (.dbSample id raw now) s =
      .next { s with buttons := s.buttons.set id ⟨now, s.isAsserted id raw && b.pressed, b.count⟩ } := by
  rw [exec_dbSample hb hn, hp, PressState.sampled_of_no_press (State.pressRegisters_eq hb raw now ▸ hp)]
  simp

/-- DB_SAMPLE earlier than the last sample (R232). -/
theorem exec_dbSample_of_earlier {now : Nat} (hb : s.buttons[id]? = some b) (hn : now < b.lastTime) (raw : Bool) :
    exec (.dbSample id raw now) s = .refused (.timeBackwards id) := by
  show execDbSample id raw now s = _
  simp only [execDbSample, hb, if_pos hn]

theorem lastTime_le_of_exec_dbSample {raw : Bool} {now : Nat} {t : State} (hb : s.buttons[id]? = some b)
    (h : exec (.dbSample id raw now) s = .next t) : b.lastTime ≤ now := by
  by_contra earlier
  rw [exec_dbSample_of_earlier hb (Nat.lt_of_not_le earlier)] at h
  cases h

theorem exec_pressCount (hb : s.buttons[id]? = some b) :
    exec (.pressCount id) s = .next { s with outputs := s.outputs ++ [.countValue id b.count] } := by
  show execPressCount id s = _
  simp only [execPressCount, hb, State.emit]

theorem exec_pressReset (hb : s.buttons[id]? = some b) :
    exec (.pressReset id) s = .next { s with buttons := s.buttons.set id { b with count := 0 } } := by
  show execPressReset id s = _
  simp only [execPressReset, hb, State.setButton]

end

/-- Settles O23: the first branch is the registered press, the others differ in whether the level is asserted. -/
theorem sampleFollowsTheDecisionTable : Obligations.SampleFollowsTheDecisionTable := by
  intro s id raw asserted now b hb ha hn
  have level : s.isAsserted id raw = true ↔ raw = asserted := State.isAsserted_iff ha raw
  have press : s.pressRegisters id raw now = true ↔
      now - b.lastTime > s.build.debounceWindow ∧ b.pressed = false ∧ raw = asserted := by
    rw [State.pressRegisters_eq hb, registersPress_iff, level]
  refine ⟨fun quiet released hl => exec_dbSample_of_press hb hn (press.2 ⟨quiet, released, hl⟩), fun hl => ?_,
    fun hl bounce => ?_⟩
  · have noPress : s.pressRegisters id raw now = false := Bool.eq_false_iff.2 fun hp => hl (press.1 hp).2.2
    rw [exec_dbSample_of_no_press hb hn noPress, Bool.eq_false_iff.2 (mt level.1 hl), Bool.false_and]
  · have noPress : s.pressRegisters id raw now = false := by
      refine Bool.eq_false_iff.2 fun hp => ?_
      obtain ⟨quiet, released, -⟩ := press.1 hp
      rcases bounce with inWindow | pressed
      · omega
      · exact Bool.false_ne_true (released.symm.trans pressed)
    rw [exec_dbSample_of_no_press hb hn noPress, level.2 hl, Bool.true_and]

/-- Settles O24: the branch of DB_SAMPLE for a time before the last one. -/
theorem earlierSampleIsRefused : Obligations.EarlierSampleIsRefused :=
  fun _ _ raw _ _ hb hn => exec_dbSample_of_earlier hb hn raw

/-- Settles O25, by the equations of the two operations. -/
theorem counterIsReadAndZeroed : Obligations.CounterIsReadAndZeroed :=
  fun _ _ _ hb => ⟨exec_pressCount hb, exec_pressReset hb⟩

/-! ### Samples of a button that is held (R234) -/

/-- Button `id`, of asserted level `a`, is pressed, was sampled last at time `last` and has counted `count` presses. -/
structure State.HeldAt (s : State) (id : Nat) (a : Bool) (last count : Nat) : Prop where
  button : s.buttons[id]? = some ⟨last, true, count⟩
  level  : s.build.assertedLevel[id]? = some a

/-- A further asserted sample of a held button refreshes its time alone, in the window or not. -/
theorem State.HeldAt.sample {s : State} {id : Nat} {a : Bool} {last count now : Nat} (h : s.HeldAt id a last count)
    (hn : last ≤ now) :
    ∃ t, exec (.dbSample id a now) s = .next t ∧ t.HeldAt id a now count ∧ t.outputs = s.outputs := by
  obtain ⟨-, -, held⟩ := sampleFollowsTheDecisionTable s id a a now _ h.button h.level hn
  exact ⟨_, held rfl (.inr rfl), ⟨State.buttons_set_get_self h.button _, h.level⟩, rfl⟩

/-- Settles O26: the first sample registers the press, and from then on the button is held. -/
theorem fivePressedSamplesCountOnce : Obligations.FivePressedSamplesCountOnce := by
  intro s id a b t1 t2 t3 t4 t5 hb ha released h1 quiet h2 h3 h4 h5 _
  obtain ⟨press, -, -⟩ := sampleFollowsTheDecisionTable s id a a t1 b hb ha h1
  obtain ⟨s1, e1, held1, o1⟩ : ∃ s1, exec (.dbSample id a t1) s = .next s1 ∧ s1.HeldAt id a t1 (b.count + 1) ∧
      s1.outputs = s.outputs ++ [.pressEvent id] :=
    ⟨_, press quiet released rfl, ⟨State.buttons_set_get_self hb _, ha⟩, rfl⟩
  obtain ⟨s2, e2, held2, o2⟩ := held1.sample h2
  obtain ⟨s3, e3, held3, o3⟩ := held2.sample h3
  obtain ⟨s4, e4, held4, o4⟩ := held3.sample h4
  obtain ⟨s5, e5, held5, o5⟩ := held4.sample h5
  exact ⟨s1, s2, s3, s4, s5, e1, e2, e3, e4, e5, held5.button, by rw [o5, o4, o3, o2, o1]⟩

/-! ### An operation is confined to its button (R225) -/

/-- The operations of U6 on button `id`. -/
def IsButtonOp (id : Nat) (i : Instr) : Prop :=
  i = .pressCount id ∨ i = .pressReset id ∨ ∃ raw now, i = .dbSample id raw now

/-- `s'` has the PressState and the parameters of button `id` that `s` has. -/
structure State.SameButton (s s' : State) (id : Nat) : Prop where
  button : s'.buttons[id]? = s.buttons[id]?
  level  : s'.build.assertedLevel[id]? = s.build.assertedLevel[id]?
  window : s'.build.debounceWindow = s.build.debounceWindow

theorem State.SameButton.isAsserted {s s' : State} {id : Nat} (h : s.SameButton s' id) (raw : Bool) :
    s'.isAsserted id raw = s.isAsserted id raw := by
  simp only [State.isAsserted, h.level]

theorem State.SameButton.pressRegisters {s s' : State} {id : Nat} (h : s.SameButton s' id) (raw : Bool) (now : Nat) :
    s'.pressRegisters id raw now = s.pressRegisters id raw now := by
  simp only [State.pressRegisters, h.button, h.window, h.isAsserted]

theorem button_exists_of_exec {s t : State} {id : Nat} {i : Instr} (hi : IsButtonOp id i) (h : exec i s = .next t) :
    ∃ b, s.buttons[id]? = some b := by
  cases hb : s.buttons[id]? with
  | some b => exact ⟨b, rfl⟩
  | none =>
    rcases hi with rfl | rfl | ⟨raw, now, rfl⟩
    · simp [exec, execPressCount, hb] at h
    · simp [exec, execPressReset, hb] at h
    · simp [exec, execDbSample, hb] at h

/-- What an operation that completes writes and puts out is the same in every state with the same button. -/
theorem exec_on_sameButton {s t : State} {id : Nat} {i : Instr} (hi : IsButtonOp id i) (h : exec i s = .next t) :
    ∃ (b : PressState) (os : List Output), ∀ s', s.SameButton s' id →
      exec i s' = .next { s' with buttons := s'.buttons.set id b, outputs := s'.outputs ++ os } := by
  obtain ⟨b, hb⟩ := button_exists_of_exec hi h
  rcases hi with rfl | rfl | ⟨raw, now, rfl⟩
  · refine ⟨b, [.countValue id b.count], fun s' same => ?_⟩
    have hb' := same.button.trans hb
    rw [exec_pressCount hb', State.buttons_set_same hb']
  · refine ⟨{ b with count := 0 }, [], fun s' same => ?_⟩
    rw [exec_pressReset (same.button.trans hb), List.append_nil]
  · refine ⟨b.sampled s.build.debounceWindow (s.isAsserted id raw) now,
      if s.pressRegisters id raw now then [.pressEvent id] else [], fun s' same => ?_⟩
    rw [exec_dbSample (same.button.trans hb) (lastTime_le_of_exec_dbSample hb h) raw, same.window, same.isAsserted,
      same.pressRegisters]

/-- Settles O27: the state itself is one with the same button, so the next state is the one written there. -/
theorem buttonsDoNotInteract : Obligations.ButtonsDoNotInteract := by
  intro s t id i hi h
  obtain ⟨b, os, writes⟩ := exec_on_sameButton hi h
  obtain rfl : t = { s with buttons := s.buttons.set id b, outputs := s.outputs ++ os } := by
    simpa [h] using writes s ⟨rfl, rfl, rfl⟩
  exact ⟨fun other hne => State.buttons_set_get_other hne b, b, os, rfl,
    fun s' hb hl hw => writes s' ⟨hb, hl, hw⟩⟩

/-! ### The press counter (R227, R229) -/

/-- A sample raises the counter by one exactly if it registers a press. -/
theorem PressState.sampled_count (b : PressState) (window : Nat) (asserted : Bool) (now : Nat) :
    (b.sampled window asserted now).count =
      if registersPress window asserted b now then b.count + 1 else b.count := by
  cases h : registersPress window asserted b now with
  | true => rw [PressState.sampled_of_press h, if_pos rfl]
  | false => rw [PressState.sampled_of_no_press h, if_neg Bool.false_ne_true]

/-- Every operation but PRESS_RESET of the button and RESET leaves the button as it was or samples it. -/
theorem exec_keeps_or_samples_button {s t : State} {i : Instr} (h : exec i s = .next t) (id : Nat)
    (hz : i ≠ .pressReset id) (hr : i ≠ .reset) :
    t.buttons[id]? = s.buttons[id]? ∨
      ∃ raw now b, i = .dbSample id raw now ∧ s.buttons[id]? = some b ∧
        t.buttons[id]? = some (b.sampled s.build.debounceWindow (s.isAsserted id raw) now) := by
  cases exec_effect h with
  | sample j raw now b hb hn =>
    by_cases hj : id = j
    · subst hj
      exact .inr ⟨raw, now, b, rfl, hb, State.buttons_set_get_self hb _⟩
    · exact .inl (State.buttons_set_get_other hj _)
  | zero j b hb =>
    have hj : id ≠ j := fun e => hz (congrArg Instr.pressReset e.symm)
    exact .inl (State.buttons_set_get_other hj _)
  | cleared => exact absurd rfl hr
  | second ch t hp hx =>
    obtain ⟨⟨-, -, -, -, -, -, hb, -⟩, -⟩ := token_keeps (s := { s with pendValid := false }) hx
    exact .inl (congrArg (·[id]?) hb)
  | push p => exact .inl (congrArg (·[id]?) (State.pushed_buttons s p))
  | pop => exact .inl (congrArg (·[id]?) (State.takeOldest_buttons s))
  | enter i m hi => exact .inl (congrArg (·[id]?) (State.enterMode_buttons s m))
  | _ => exact .inl rfl

/-- Settles O28: an operation that is none of the two leaves the counter or samples the button, and a sample counts a
press or leaves it. -/
theorem onlyResetsLowerACounter : Obligations.OnlyResetsLowerACounter := by
  intro s id b hb
  refine ⟨exec_pressReset hb, fun raw now t pressed h => ?_, fun i t h hz hr => ?_⟩
  · rw [exec_dbSample hb (lastTime_le_of_exec_dbSample hb h)] at h
    cases h
    refine ⟨_, State.buttons_set_get_self hb _, ?_⟩
    rw [PressState.sampled_count, registersPress_of_pressed pressed, if_neg Bool.false_ne_true]
  · rcases exec_keeps_or_samples_button h id hz hr with kept | ⟨raw, now, c, rfl, hc, ht⟩
    · exact ⟨b, kept.trans hb, le_rfl, fun hne => absurd rfl hne⟩
    · obtain rfl : b = c := Option.some.inj (hb.symm.trans hc)
      refine ⟨_, ht, ?_⟩
      rw [PressState.sampled_count]
      cases registersPress s.build.debounceWindow (s.isAsserted id raw) b now with
      | true => exact ⟨Nat.le_succ _, fun _ => ⟨rfl, raw, now, rfl⟩⟩
      | false => exact ⟨le_rfl, fun hne => absurd rfl hne⟩

/-! ### A sample and PRESS_RESET presented to a step (R230, R236, R312) -/

theorem wireToggle_next (i : Instr) (s t : State) :
    wireToggle i s (.next t) = .next { t with half := if pulsesToggle i s then otherHalf t.half else t.half } := by
  cases h : pulsesToggle i s with
  | true => simp [wireToggle, h, execToggleHalf]
  | false => exact wireToggle_quiet h _

theorem pulsesToggle_dbSample_iff {s : State} {id now : Nat} {raw : Bool} :
    pulsesToggle (.dbSample id raw now) s = true ↔
      id = s.build.toggleButton ∧ s.pressRegisters id raw now = true := by
  simp [pulsesToggle]

theorem otherHalf_ne (h : Half) : otherHalf h ≠ h := by
  cases h <;> decide

/-- A step that takes a sample: the operation, and the toggle if it pulses the wire. -/
theorem step_sample {s : State} {id now : Nat} {raw : Bool} {b : PressState} {rest : List Stimulus}
    (hi : s.inputs = ⟨.sample id, sampleBytes raw now⟩ :: rest) (hid : id < s.build.nButtons)
    (hb : s.buttons[id]? = some b) (hn : b.lastTime ≤ now) :
    step s = .next { s with
      inputs := rest
      buttons := s.buttons.set id (b.sampled s.build.debounceWindow (s.isAsserted id raw) now)
      outputs := s.outputs ++ if s.pressRegisters id raw now then [.pressEvent id] else []
      half := if pulsesToggle (.dbSample id raw now) s then otherHalf s.half else s.half } := by
  have decoded : decode s.context ⟨.sample id, sampleBytes raw now⟩ = .ok (.dbSample id raw now) :=
    decodeGivesBackEveryOperation s.context (.dbSample id raw now) (decide_eq_true hid) rfl
  rw [step_of_presented (State.presented_of_inputs hi) rfl decoded, exec_dbSample (s := s.setInputs rest) hb hn,
    wireToggle_next]
  rfl

theorem step_pressReset {s : State} {id : Nat} {b : PressState} {rest : List Stimulus}
    (hi : s.inputs = ⟨.pressReset id, []⟩ :: rest) (hid : id < s.build.nButtons) (hb : s.buttons[id]? = some b) :
    step s = .next { s with inputs := rest, buttons := s.buttons.set id { b with count := 0 } } := by
  have decoded : decode s.context ⟨.pressReset id, []⟩ = .ok (.pressReset id) :=
    decodeGivesBackEveryOperation s.context (.pressReset id) (decide_eq_true hid) rfl
  rw [step_of_presented (State.presented_of_inputs hi) rfl decoded, exec_pressReset (s := s.setInputs rest) hb]
  exact wireToggle_quiet rfl _

/-- Settles O29: the wire is pulsed exactly if the sample registers a press of TOGGLE_BUTTON. -/
theorem pressOfToggleButtonTogglesHalf : Obligations.PressOfToggleButtonTogglesHalf := by
  intro s rest id raw now b hi hid hb hn
  refine ⟨_, step_sample hi hid hb hn, rfl, fun press => ⟨?_, fun toggle => ?_, fun other => ?_⟩,
    fun noPress => ⟨?_, ?_⟩⟩
  · exact congrArg (s.outputs ++ ·) (if_pos press)
  · have pulsed := pulsesToggle_dbSample_iff.2 ⟨toggle, press⟩
    exact (if_pos pulsed).trans_ne (otherHalf_ne s.half)
  · exact if_neg fun pulsed => other (pulsesToggle_dbSample_iff.1 pulsed).1
  · simp [noPress]
  · exact if_neg fun pulsed => Bool.eq_false_iff.1 noPress (pulsesToggle_dbSample_iff.1 pulsed).2

/-- Zeroing the counter changes nothing that decides whether a sample registers. -/
theorem registersPress_of_zeroed (window : Nat) (asserted : Bool) (b : PressState) (now : Nat) :
    registersPress window asserted { b with count := 0 } now = registersPress window asserted b now := rfl

/-- Settles O59: the sample finds the counter at 0 and the rest of the PressState as it was before the edge. -/
theorem resetThenSampleOnOneEdge : Obligations.ResetThenSampleOnOneEdge := by
  intro s id raw now b hb hid hn
  have zeroed := State.buttons_set_get_self hb { b with count := 0 }
  have same : s.pressRegisters id raw now =
      registersPress s.build.debounceWindow (s.isAsserted id raw) { b with count := 0 } now :=
    (State.pressRegisters_eq hb raw now).trans (registersPress_of_zeroed _ _ b now).symm
  have order : edgeSequence s ⟨false, none, none, none, [id], [(id, raw)], now, false⟩ =
      [⟨.pressReset id, []⟩, ⟨.sample id, sampleBytes raw now⟩] := by
    simp [edgeSequence, queueOrder]
  have sampled := State.buttons_set_get_self (s := s.setButton id { b with count := 0 }) zeroed
    (({ b with count := 0 } : PressState).sampled s.build.debounceWindow (s.isAsserted id raw) now)
  refine ⟨_, edge_of_two_steps order (step_pressReset rfl hid hb) (step_sample rfl hid zeroed hn), fun press => ?_,
    fun noPress => ⟨_, sampled, ?_⟩⟩
  · exact sampled.trans (congrArg some (PressState.sampled_of_press (same.symm.trans press)))
  · exact congrArg PressState.count (PressState.sampled_of_no_press (same.symm.trans noPress))

end Sys2Proof.Machine
end

section
/-! U5 InteractiveCodecFSM (45_interactive_fsm.md): what each of its operations does, what the log gets (R268), the output
ports (R266, R267), and a character beside a toggle on one clock edge (R270, R312). -/

namespace Sys2Proof.Machine

/-! ### What the operations do -/

@[simp] theorem exec_hexval (c : CharCode) (s : State) :
    exec (.hexval c) s = .next (s.emit (.hexResult (hexValue c))) := rfl

@[simp] theorem exec_toggleHalf (s : State) : exec .toggleHalf s = .next { s with half := otherHalf s.half } := rfl

/-- A command token enters its mode, whatever the mode is (R256 to R258). -/
theorem exec_command {i : Instr} {m : Mode}
    (hi : (i = .tokCmdEncode ∧ m = .encode) ∨ (i = .tokCmdDecode ∧ m = .decode) ∨ (i = .tokCmdIdle ∧ m = .idle))
    (s : State) : exec i s = .next (s.enterMode m) := by
  rcases hi with ⟨rfl, rfl⟩ | ⟨rfl, rfl⟩ | ⟨rfl, rfl⟩ <;> rfl

theorem exec_tokInvalid {c1 c2 : CharCode} (h : isInvalidToken c1 c2 = true) (s : State) :
    exec (.tokInvalid c1 c2) s = .next (s.emit .logError) :=
  if_pos h

theorem exec_tokDataIdle {s : State} (hm : s.mode = .idle) (b : Byte) : exec (.tokDataIdle b) s = .next s := by
  simp only [exec, execTokDataIdle, hm]

theorem exec_tokDataDecode {s : State} (hm : s.mode = .decode) (b : Byte) :
    exec (.tokDataDecode b) s =
      .next { s with decNib := (decodeByte b).nibble, lastClass := classify b, lastValid := true,
                     dispValid := true } := by
  simp only [exec, execTokDataDecode, hm]

/-! ### Tokens and characters complete, and do not read what is presented next -/

theorem State.enterMode_setInputs (s : State) (m : Mode) (ins : List Stimulus) :
    (s.setInputs ins).enterMode m = (s.enterMode m).setInputs ins := by
  by_cases h : s.mode ≠ m ∨ s.build.cmdSameModeResets = true
  · rw [State.enterMode_effective h, State.enterMode_effective (s := s.setInputs ins) h]
    rfl
  · obtain ⟨same, noReset⟩ : s.mode = m ∧ s.build.cmdSameModeResets = false := by simpa using h
    rw [State.enterMode_same same noReset, State.enterMode_same (s := s.setInputs ins) same noReset]

/-- The operation a token selects completes in every state, the same whatever is presented next. -/
theorem token_completes (s : State) (c1 c2 : CharCode) :
    ∃ t : State, ∀ ins, exec (decodeToken s.mode c1 c2) (s.setInputs ins) = .next (t.setInputs ins) := by
  rcases decodeToken_cases s.mode c1 c2 with
    ⟨-, -, e⟩ | ⟨-, -, e⟩ | ⟨-, -, e⟩ | ⟨hi, -, e⟩ | ⟨b, -, -, ⟨hm, e⟩ | ⟨hm, e⟩ | ⟨hm, e⟩⟩ <;> rw [e]
  · exact ⟨s.enterMode .encode, fun ins => congrArg _ (s.enterMode_setInputs .encode ins)⟩
  · exact ⟨s.enterMode .decode, fun ins => congrArg _ (s.enterMode_setInputs .decode ins)⟩
  · exact ⟨s.enterMode .idle, fun ins => congrArg _ (s.enterMode_setInputs .idle ins)⟩
  · exact ⟨s.emit .logError, fun ins => exec_tokInvalid hi (s.setInputs ins)⟩
  · exact ⟨s, fun ins => exec_tokDataIdle (s := s.setInputs ins) hm b⟩
  · exact ⟨{ s with codeLo := encNibble (lowNibble b), codeHi := encNibble (highNibble b), dispValid := true },
      fun ins => exec_tokDataEncode (s := s.setInputs ins) hm b⟩
  · exact ⟨{ s with decNib := (decodeByte b).nibble, lastClass := classify b, lastValid := true, dispValid := true },
      fun ins => exec_tokDataDecode (s := s.setInputs ins) hm b⟩

/-- CHAR_IN completes in every state, the same whatever is presented next. -/
theorem charIn_completes (ch : CharCode) (s : State) :
    ∃ t : State, ∀ ins, exec (.charIn ch) (s.setInputs ins) = .next (t.setInputs ins) := by
  cases hp : s.pendValid with
  | false =>
    exact ⟨{ s with pendChar := ch, pendValid := true }, fun ins => execCharIn_first (s := s.setInputs ins) hp ch⟩
  | true =>
    obtain ⟨t, ht⟩ := token_completes { s with pendValid := false } s.pendChar ch
    exact ⟨t, fun ins => (execCharIn_completes (s := s.setInputs ins) hp ch).trans (ht ins)⟩

/-! ### The log (R268) -/

theorem timesEmitted_append_of_notMem {o : Output} {os : List Output} (h : o ∉ os) (before : List Output) :
    timesEmitted o (before ++ os) = timesEmitted o before := by
  rw [timesEmitted_append, show timesEmitted o os = 0 from List.count_eq_zero.2 h, Nat.add_zero]

/-- Settles O41: of all effects only the result of an invalid token is a log entry; CHAR_IN puts out what its token
does. -/
theorem onlyInvalidTokensAreLogged : Obligations.OnlyInvalidTokensAreLogged := by
  intro i s t h
  cases exec_effect h with
  | puts i o ho hl hi =>
    cases i with
    | tokInvalid c1 c2 =>
      rw [hl.2 ⟨c1, c2, rfl⟩]
      exact timesEmitted_append ..
    | charIn ch => cases hi
    | _ => exact timesEmitted_append_of_notMem (by simpa [eq_comm] using hl) _
  | push p =>
    rw [State.emit_outputs, State.pushed_outputs]
    exact timesEmitted_append_of_notMem (by simp) _
  | pop =>
    rw [State.emit_outputs, State.takeOldest_outputs]
    exact timesEmitted_append_of_notMem (by simp) _
  | send ht => exact timesEmitted_append_of_notMem (by simp) _
  | sample id raw now b hb hn => exact timesEmitted_append_of_notMem (by split <;> simp) _
  | first ch hp => simp [hp]
  | second ch t hp hx =>
    obtain ⟨-, ho⟩ := token_keeps (s := { s with pendValid := false }) hx
    rw [ho, timesEmitted_append]
    cases hi : isInvalidToken s.pendChar ch <;> simp [hp, hi, timesEmitted]
  | stay i hi => rcases hi with rfl | rfl | ⟨b, rfl⟩ <;> rfl
  | enter i m hi =>
    rw [State.enterMode_outputs]
    rcases hi with ⟨rfl, -⟩ | ⟨rfl, -⟩ | ⟨rfl, -⟩ <;> rfl
  | _ => rfl

/-! ### A character and a toggle on one edge (R270, R312) -/

theorem step_charIn {s : State} {ch : CharCode} {rest : List Stimulus} (h : s.inputs = ⟨.ch, [ch]⟩ :: rest) :
    step s = exec (.charIn ch) (s.setInputs rest) := by
  rw [step_of_presented (i := .charIn ch) (State.presented_of_inputs h) rfl rfl]
  exact wireToggle_quiet rfl _

theorem step_toggle {s : State} {rest : List Stimulus} (h : s.inputs = ⟨.toggle, []⟩ :: rest) :
    step s = exec .toggleHalf (s.setInputs rest) := by
  rw [step_of_presented (i := .toggleHalf) (State.presented_of_inputs h) rfl rfl]
  exact wireToggle_quiet rfl _

/-- The second `#` of a command outside Encode selects the low half. -/
theorem half_of_encode_command {s t : State} (hp : s.pendValid = true) (hc : s.pendChar = charHash)
    (hm : s.mode ≠ .encode) (h : exec (.charIn charHash) s = .next t) : t.half = .low := by
  have selects : decodeToken s.mode s.pendChar charHash = .tokCmdEncode := by rw [hc]; rfl
  rw [execCharIn_completes hp, selects, exec_command (.inl ⟨rfl, rfl⟩),
    State.enterMode_effective (s := { s with pendValid := false }) (.inl hm)] at h
  cases h
  rfl

/-- Settles O58: the edge presents the character and then the toggle, and neither operation reads the inputs. -/
theorem tokenActsBeforeToggle : Obligations.TokenActsBeforeToggle := by
  intro s ch now
  obtain ⟨t, ht⟩ := charIn_completes ch s
  have charIn : exec (.charIn ch) s = .next (t.setInputs s.inputs) := ht s.inputs
  have order : edgeSequence s ⟨false, none, none, some ch, [], [], now, true⟩ = [⟨.ch, [ch]⟩, ⟨.toggle, []⟩] := by
    simp [edgeSequence, queueOrder]
  refine ⟨_, _, charIn, exec_toggleHalf _,
    edge_of_two_steps order ((step_charIn rfl).trans (ht (⟨.toggle, []⟩ :: s.inputs))) (step_toggle rfl), ?_⟩
  rintro hp hc rfl hm
  exact congrArg otherHalf (half_of_encode_command hp hc hm charIn)

/-! ### HEXVAL, characters and tokens -/

theorem hexValue_of_decimal {c : CharCode} (h1 : 0x30 ≤ c.toNat) (h2 : c.toNat ≤ 0x39) :
    ∃ n, hexValue c = some n ∧ n.toNat = c.toNat - 0x30 := by
  refine ⟨_, if_pos ⟨h1, h2⟩, ?_⟩
  rw [BitVec.toNat_setWidth]
  bv_omega

theorem hexValue_of_upper {c : CharCode} (h1 : 0x41 ≤ c.toNat) (h2 : c.toNat ≤ 0x46) :
    ∃ n, hexValue c = some n ∧ n.toNat = c.toNat - 0x41 + 10 := by
  refine ⟨_, (if_neg (by bv_omega)).trans (if_pos ⟨h1, h2⟩), ?_⟩
  rw [BitVec.toNat_setWidth]
  bv_omega

theorem hexValue_of_lower {c : CharCode} (h1 : 0x61 ≤ c.toNat) (h2 : c.toNat ≤ 0x66) :
    ∃ n, hexValue c = some n ∧ n.toNat = c.toNat - 0x61 + 10 := by
  refine ⟨_, (if_neg (by bv_omega)).trans ((if_neg (by bv_omega)).trans (if_pos ⟨h1, h2⟩)), ?_⟩
  rw [BitVec.toNat_setWidth]
  bv_omega

theorem hexValue_of_no_digit {c : CharCode} (hd : ¬ (0x30 ≤ c.toNat ∧ c.toNat ≤ 0x39))
    (hu : ¬ (0x41 ≤ c.toNat ∧ c.toNat ≤ 0x46)) (hl : ¬ (0x61 ≤ c.toNat ∧ c.toNat ≤ 0x66)) : hexValue c = none :=
  (if_neg hd).trans ((if_neg hu).trans (if_neg hl))

/-- Settles O30: the three ranges of digits and the rest. -/
theorem hexvalOfEveryCharacter : Obligations.HexvalOfEveryCharacter := fun c s =>
  ⟨hexValue c, exec_hexval c s, hexValue_of_decimal, hexValue_of_upper, hexValue_of_lower, hexValue_of_no_digit⟩

/-- Settles O31: the token of two characters completes, and no token sets the flag again. -/
theorem charactersPairIntoTokens : Obligations.CharactersPairIntoTokens := by
  refine fun ch s => ⟨fun first => execCharIn_first first ch, fun second => ?_⟩
  have token := execCharIn_completes second ch
  obtain ⟨t, ht⟩ := charIn_completes ch s
  have completes : exec (.charIn ch) s = .next (t.setInputs s.inputs) := ht s.inputs
  obtain ⟨⟨-, -, -, -, -, -, -, flag, -⟩, -⟩ :=
    token_keeps (s := { s with pendValid := false }) (token.symm.trans completes)
  exact ⟨token, _, completes, flag⟩

/-- Settles O33: a command token is the entry of its mode, with the entry's resets or without. -/
theorem commandTokensEnterTheirMode : Obligations.CommandTokensEnterTheirMode := by
  intro s i m hi
  rw [exec_command hi]
  exact ⟨fun effective => congrArg _ (State.enterMode_effective effective),
    fun same noReset => congrArg _ (State.enterMode_same same noReset)⟩

/-- Settles O34: such a token is what TOK_INVALID is enabled for, in every mode. -/
theorem invalidTokenOnlyLogs : Obligations.InvalidTokenOnlyLogs := fun s c1 c2 notCommand noDigit =>
  exec_tokInvalid ((isInvalidToken_iff c1 c2).2 ⟨notCommand, noDigit⟩) s

/-- Settles O35: Idle is the mode that enables the operation, and it writes nothing. -/
theorem idleIgnoresData : Obligations.IdleIgnoresData := fun _ b hm => exec_tokDataIdle hm b

/-- Settles O36: the stored values are the results of ENC, DEC and CLS. -/
theorem dataTokensFollowTheMode : Obligations.DataTokensFollowTheMode := fun s b =>
  ⟨fun hm => ⟨_, _, exec_enc (lowNibble b) s, exec_enc (highNibble b) s, exec_tokDataEncode hm b⟩,
    fun hm => ⟨_, _, exec_dec b s, exec_cls b s, exec_tokDataDecode hm b⟩⟩

@[simp] theorem otherHalf_otherHalf (h : Half) : otherHalf (otherHalf h) = h := by
  cases h <;> rfl

/-- Settles O37: the other half is an involution. -/
theorem toggleInvertsHalf : Obligations.ToggleInvertsHalf := fun s =>
  ⟨otherHalf s.half, exec_toggleHalf s, fun low => by rw [low]; rfl, fun high => by rw [high]; rfl, by simp⟩

/-! ### The display (R266) and the indicators (R267) -/

theorem State.dispValidO_iff (s : State) :
    s.dispValidO = true ↔ s.dispValid = true ∧ (s.mode = .encode ∨ s.mode = .decode) := by
  simp [State.dispValidO]

theorem State.dispO_of_encode {s : State} (hm : s.mode = .encode) (hd : s.dispValid = true) :
    s.dispO = some (if s.half = .low then s.codeLo else s.codeHi) := by
  cases hh : s.half <;> simp [State.dispO, hm, hd, hh]

theorem State.dispO_of_decode {s : State} (hm : s.mode = .decode) (hd : s.dispValid = true) :
    s.dispO = some (s.decNib.setWidth 8) := by
  simp only [State.dispO, hm, hd]

theorem State.dispO_of_not_dispValidO {s : State} (h : ¬ s.dispValidO = true) : s.dispO = none := by
  unfold State.dispO
  split
  next hm hd => exact absurd (s.dispValidO_iff.2 ⟨hd, .inl hm⟩) h
  next hm hd => exact absurd (s.dispValidO_iff.2 ⟨hd, .inr hm⟩) h
  next => rfl

theorem State.dispO_isSome (s : State) : s.dispO.isSome = s.dispValidO := by
  by_cases h : s.dispValidO = true
  · obtain ⟨hd, hm | hm⟩ := s.dispValidO_iff.1 h
    · rw [h, State.dispO_of_encode hm hd, Option.isSome_some]
    · rw [h, State.dispO_of_decode hm hd, Option.isSome_some]
  · rw [State.dispO_of_not_dispValidO h, Bool.eq_false_iff.2 h, Option.isSome_none]

/-- Settles O38: the content in each mode; that Idle has none is a clause of the invariant. -/
theorem displayShowsTheSelectedValue : Obligations.DisplayShowsTheSelectedValue := by
  refine fun s => ⟨s.dispValidO_iff, s.dispO_isSome, fun hm hd low => ?_, fun hm hd high => ?_, fun hm hd => ?_,
    fun inv idle => ?_⟩
  · rw [State.dispO_of_encode hm hd, if_pos low]
  · rw [State.dispO_of_encode hm hd, if_neg (by simp [high])]
  · exact ⟨_, State.dispO_of_decode hm hd, BitVec.toNat_setWidth_of_le (by decide)⟩
  · exact Bool.eq_false_iff.2 fun hd => by simpa [idle] using inv.dispNotIdle hd

theorem State.indOk_iff (s : State) : s.indOk = true ↔ s.lastValid = true ∧
    (s.lastClass = .noError ∨ (s.lastClass = .parityOnly ∧ s.build.indParityOnly = .ok)) := by
  simp [State.indOk]

theorem State.indCorr_iff (s : State) : s.indCorr = true ↔ s.lastValid = true ∧
    (s.lastClass = .singleCorrected ∨ (s.lastClass = .parityOnly ∧ s.build.indParityOnly = .corrected)) := by
  simp [State.indCorr]

theorem State.indUnc_iff (s : State) :
    s.indUnc = true ↔ s.lastValid = true ∧ s.lastClass = .doubleUncorrectable := by
  simp [State.indUnc]

theorem State.indOk_indCorr_exclusive (s : State) : ¬ (s.indOk = true ∧ s.indCorr = true) := by
  rw [State.indOk_iff, State.indCorr_iff]
  rintro ⟨⟨-, ok | ⟨ok, param⟩⟩, -, corr⟩
  · simp [ok] at corr
  · simp [ok, param] at corr

theorem State.indOk_indUnc_exclusive (s : State) : ¬ (s.indOk = true ∧ s.indUnc = true) := by
  rw [State.indOk_iff, State.indUnc_iff]
  rintro ⟨⟨-, ok⟩, -, unc⟩
  simp [unc] at ok

theorem State.indCorr_indUnc_exclusive (s : State) : ¬ (s.indCorr = true ∧ s.indUnc = true) := by
  rw [State.indCorr_iff, State.indUnc_iff]
  rintro ⟨⟨-, corr⟩, -, unc⟩
  simp [unc] at corr

/-- Settles O39: without a last result all three are off; with one, each is its condition on the last class, and the
conditions exclude each other. -/
theorem indicatorsFollowTheClass : Obligations.IndicatorsFollowTheClass := by
  refine fun s => ⟨fun off => ?_, fun last => ⟨?_, ?_, ?_⟩, s.indOk_indCorr_exclusive, s.indOk_indUnc_exclusive,
    s.indCorr_indUnc_exclusive⟩
  · simp [State.indOk, State.indCorr, State.indUnc, off]
  · exact s.indOk_iff.trans (and_iff_right last)
  · exact s.indCorr_iff.trans (and_iff_right last)
  · exact s.indUnc_iff.trans (and_iff_right last)

end Sys2Proof.Machine
end

section
/-! Exceptional conditions (60_exceptions.md): a step always gives a next state unless what the environment presents is none
of the block's stimuli (R300), and RESET on a clock edge (R312). -/

namespace Sys2Proof.Machine

/-- A sample that `i` takes in `s` is no earlier than the last one of its button (R232). -/
def InTime (s : State) (i : Instr) : Prop :=
  ∀ id raw now, i = .dbSample id raw now → ∀ b, s.buttons[id]? = some b → b.lastTime ≤ now

theorem not_inTime_iff {s : State} {i : Instr} :
    ¬ InTime s i ↔
      ∃ id raw now b, i = .dbSample id raw now ∧ s.buttons[id]? = some b ∧ now < b.lastTime := by
  simp only [InTime, not_forall, not_le, exists_prop, exists_and_left]

/-! ### Steps that complete -/

theorem step_completes_of_nothing_presented {s : State} (h : s.presented = none) : ∃ t, step s = .next t := by
  rw [step_of_nothing_presented h]
  cases Config.unscheduledTurn s.freeIdx with
  | none => exact ⟨_, rfl⟩
  | some g => exact exec_txpTurn_completes (s.drawFree 1) g

/-- What decodes at a port is well-formed and enabled, so in time it completes; the toggle wire stops nothing. -/
theorem step_completes_of_decoded {s u : State} {st : Stimulus} {i : Instr} (hb : s.buttons.length = s.build.nButtons)
    (hp : s.presented = some (st, u)) (hx : st.select.external = true) (hd : decode s.context st = .ok i)
    (hi : InTime s i) : ∃ t, step s = .next t := by
  obtain ⟨wellFormed, enabled, -⟩ := decode_selectableAt hd
  obtain ⟨rest, rfl, -⟩ := State.presented_some hp
  obtain ⟨t, ht⟩ := exec_completes (s := s.setInputs rest) wellFormed hb enabled hi
  rw [step_of_presented hp hx hd, ht, wireToggle_next]
  exact ⟨_, rfl⟩

/-- Settles O48: nothing presented is a turn of TXP or no step, and what the ports can carry decodes. -/
theorem blockNeverStops : Obligations.BlockNeverStops := by
  intro s inv env
  cases hp : s.presented with
  | none => exact step_completes_of_nothing_presented hp
  | some x =>
    obtain ⟨hx, i, hd, inTime⟩ := env x.1 x.2 hp
    exact step_completes_of_decoded inv.buttonForEach hp hx hd inTime

/-! ### Steps that are refused -/

theorem step_of_internal_point {s u : State} {st : Stimulus} (hp : s.presented = some (st, u))
    (hx : st.select.external = false) : step s = .refused .internalPoint := by
  simp [step, selected, hp, hx]

theorem step_of_bad_wires {s u : State} {st : Stimulus} {e : WireError} (hp : s.presented = some (st, u))
    (hx : st.select.external = true) (hd : decode s.context st = .error e) : step s = .refused (.badWires e) := by
  simp [step, selected, hp, hx, hd]

theorem step_of_earlier_sample {s u : State} {st : Stimulus} {id now : Nat} {raw : Bool} {b : PressState}
    (hp : s.presented = some (st, u)) (hx : st.select.external = true)
    (hd : decode s.context st = .ok (.dbSample id raw now)) (hb : s.buttons[id]? = some b) (hn : now < b.lastTime) :
    step s = .refused (.timeBackwards id) := by
  obtain ⟨rest, rfl, -⟩ := State.presented_some hp
  rw [step_of_presented hp hx hd, exec_dbSample_of_earlier (s := s.setInputs rest) hb hn]
  rfl

/-- Settles O49: a stimulus at a port that decodes is refused only out of time; a fault has no constructor. -/
theorem onlyTheEnvironmentIsRefused : Obligations.OnlyTheEnvironmentIsRefused := by
  refine fun s inv => ⟨nofun, fun r hr => ?_⟩
  have incomplete : ¬ ∃ t, step s = .next t := fun ⟨t, ht⟩ => ne_refused_of_next ht r hr
  cases hp : s.presented with
  | none => exact absurd (step_completes_of_nothing_presented hp) incomplete
  | some x =>
    obtain ⟨st, u⟩ := x
    refine ⟨st, u, rfl, ?_⟩
    cases hx : st.select.external with
    | false =>
      rw [step_of_internal_point hp hx] at hr
      cases hr
      exact .inr (.inl rfl)
    | true =>
      cases hd : decode s.context st with
      | error e =>
        rw [step_of_bad_wires hp hx hd] at hr
        cases hr
        exact .inl ⟨e, rfl⟩
      | ok i =>
        have late : ¬ InTime s i := mt (step_completes_of_decoded inv.buttonForEach hp hx hd) incomplete
        obtain ⟨id, raw, now, b, rfl, hb, hn⟩ := not_inTime_iff.1 late
        rw [step_of_earlier_sample hp hx hd hb hn] at hr
        cases hr
        exact .inr (.inr ⟨id, raw, now, b, rfl, rfl, hb, hn⟩)

/-! ### RESET on a clock edge (R312 (a)) -/

/-- An edge of one step. -/
theorem edge_of_one_step {s t : State} {e : Edge} {a : Stimulus} (he : edgeSequence s e = [a])
    (ha : step (s.setInputs (a :: s.inputs)) = .next t) : edge s e = .next t := by
  simp only [edge, he, List.length_cons, List.length_nil, List.cons_append, List.nil_append, Host.Core.run, ha]

theorem edgeSequence_of_rst {e : Edge} (h : e.rst = true) (s : State) : edgeSequence s e = [⟨.rst, []⟩] :=
  if_pos h

theorem step_reset {s : State} {rest : List Stimulus} (h : s.inputs = ⟨.rst, []⟩ :: rest) :
    step s = exec .reset (s.setInputs rest) := by
  rw [step_of_presented (i := .reset) (State.presented_of_inputs h) rfl rfl]
  exact wireToggle_quiet rfl _

/-- Settles O57: the edge presents RESET alone, which completes. -/
theorem resetOverridesTheEdge : Obligations.ResetOverridesTheEdge := fun s _ h =>
  edge_of_one_step (edgeSequence_of_rst h s) (step_reset rfl)

end Sys2Proof.Machine
end

section
/-! RESET (70_reset_and_hazards.md, R330): the values it writes, and what of the environment it keeps. -/

namespace Sys2Proof.Machine

theorem exec_reset (s : State) : exec .reset s = .next s.afterReset := rfl

theorem State.HoldsResetValues.buttons_eq_replicate {s : State} (h : s.HoldsResetValues) :
    s.buttons = List.replicate s.build.nButtons PressState.reset :=
  h.buttons.trans List.map_const'

/-- Settles O44: the next state is `afterReset`, which holds the values of R330 with one PressState for each button, no
character waiting, and the environment's side as it was. -/
theorem resetWritesTheResetValues : Obligations.ResetWritesTheResetValues := by
  intro s
  have h := s.afterReset_holdsResetValues
  exact ⟨s.afterReset, exec_reset s, h.q, h.txState, h.mode, s.afterReset_pendValid, h.half, h.dispValid, h.lastValid,
    h.buttons_eq_replicate, s.afterReset_outputs, s.afterReset_build, s.afterReset_inputs, s.afterReset_cycle⟩

end Sys2Proof.Machine
end
